-- ==== Sys2Proof/Word.lean ====
section
/-! DEFINITION. The words of the block and the finite sets of names the specification gives it: bytes, nibbles,
samples, event words (10_state.md R10, 30_encoding.md R61), the numbers of the calibration datapath
(00_scope.md R9, 42_calibration.md R100), protocol states (R17, R60), events (R2, R62) and the operations
presented at the calibration ports (R63). -/
namespace Sys2Proof

/-- A byte of the input stream: 8 bits (R8 `BYTE_BITS`, R10). -/
abbrev Byte := BitVec 8

/-- The high nibble register's width: 4 bits (R10, R15). -/
abbrev Nibble := BitVec 4

/-- A sample: 12 bits, unsigned (R8 `SAMPLE_BITS`, R10, R16). -/
abbrev Sample := BitVec 12

/-- An event word: 13 bits `kind[2:0], st[1:0], byte[7:0]` (R61). -/
abbrev EventWord := BitVec 13

/-- `CalNum`, the number system of the calibration datapath: the rationals, the reference R100 gives
(DESIGN CHOICE the specification offers, log entry 1). -/
abbrev CalNum := Rat

/-- The protocol states of R17. `0b11` names no state and this type has no value for it (R60, R64). -/
inductive ProtoState where
  /-- `WAIT_SYNC`, code `0b00` -/
  | waitSync
  /-- `READ_HIGH_BYTE`, code `0b01` -/
  | readHigh
  /-- `READ_LOW_BYTE`, code `0b10` -/
  | readLow
deriving DecidableEq, Repr

/-- The events of R2 and R62 as the environment presents them: a byte, or one of six control events.
It is also one line of an event script (R68). -/
inductive Event where
  /-- `BYTE(b)`: the byte `b` is popped from `rxq` -/
  | byte (b : Byte)
  /-- `NOBYTE`: the reader was ready and no byte was available -/
  | nobyte
  /-- `REQ`: the controller starts a request -/
  | req
  /-- `FLUSH`: the controller flushes -/
  | flush
  /-- `CANCEL`: the stop signal is up -/
  | cancel
  /-- `DEVLOST`: the byte source is gone for good -/
  | devlost
  /-- `RESET` -/
  | reset
deriving DecidableEq, Repr

/-- The operations of the calibration datapath with the operands on its ports. They have no event word
(R63): they are selected by `cal_in_valid = 1`. -/
inductive DpOp where
  /-- `CODE2V` of a sample code (R103) -/
  | code2v (code : Sample)
  /-- `CAL_STAGE1` of key `k` at a voltage (R105) -/
  | calStage1 (k : Nat) (v : CalNum)
  /-- `CAL_STAGE2` of the per-key estimates at a frequency (R106) -/
  | calStage2 (E : List CalNum) (f : CalNum)
  /-- `CAL_EVAL` of a voltage and a frequency (R104) -/
  | calEval (v f : CalNum)
  /-- `SAMPLE_POWER` of a sample code and a frequency (R109) -/
  | samplePower (code : Sample) (f : CalNum)
deriving DecidableEq, Repr

/-- The two detector channels, one reader each (R33, R131). -/
inductive Chan where
  | a
  | b
deriving DecidableEq, Repr

end Sys2Proof
end

