-- ==== Sys2Proof/Config.lean ====
section
/-! DEFINITION. The constants of 00_scope.md R8, the open parameters of R9 and the layout of the calibration
table (42_calibration.md R97). Parameters are plain data: they ride along in the state, which no step changes,
so that every statement over all states is a statement over all parameter values (log entry 2). -/
namespace Sys2Proof

namespace Config

/-- `SYNC_BYTE`: the only byte that leaves `WAIT_SYNC` (R8). -/
def syncByte : Byte := 0xFF#8

/-- `HIGH_MASK`: the bits of the high byte that must be zero (R8). -/
def highMask : Byte := 0xF0#8

/-- `HIGH_EXPECT`: the required value of `byte & HIGH_MASK` (R8). -/
def highExpect : Byte := 0x00#8

/-- `FRAME_BYTES`: sync, high, low (R8). -/
def frameBytes : Nat := 3

/-- `VREF`: the detector output at full scale, 33/10 volts (R8). -/
def vref : CalNum := 33 / 10

/-- `CAL_OFFSET_DB`: the fixed additive offset, 33/10 dB (R8). -/
def calOffsetDb : CalNum := 33 / 10

end Config

/-- `ADC_DIV`, the divisor of the code-to-voltage scale: 4095, or 4096 (R9, D18). -/
inductive AdcDiv where
  /-- 4095, the default: both ends of the range map as stated -/
  | d4095
  /-- 4096, the other common convention -/
  | d4096
deriving DecidableEq, Repr

/-- `UART_BIT_ORDER`: the order of the bits of a byte on the serial line (R9, R39). -/
inductive BitOrder where
  | lsbFirst
  | msbFirst
deriving DecidableEq, Repr

/-- The open parameters of R8 and R9 that an implementation fixes. -/
structure Params where
  /-- `HAS_CAL`: whether the calibration datapath is present (R8) -/
  hasCal : Bool
  /-- `ADC_DIV` (R9) -/
  adcDiv : AdcDiv
  /-- `RXQ_DEPTH`: the capacity of each `rxq`; `none` is unbounded (R9, R34) -/
  rxqDepth : Option Nat
  /-- `CAL_LATENCY`: clock cycles from `cal_in_valid` to `cal_out_valid` (R9, R111) -/
  calLatency : Nat
  /-- `UART_BIT_ORDER` (R9); no rule depends on it, since the block receives bytes in parallel (R39) -/
  uartBitOrder : BitOrder
deriving DecidableEq, Repr

/-- The constraint R9 puts on the parameters: a bounded queue holds at least one byte. -/
def Params.wf (p : Params) : Bool :=
  match p.rxqDepth with
  | none => true
  | some d => decide (1 ≤ d)

/-- The parameters the model starts from: the document's `ADC_DIV` (R8, R9), an unbounded queue (one of the two
forms R34 allows), and for the rest, of which no statement rests on a value: the datapath present, latency 0, least
significant bit first (DESIGN CHOICE, log entry 2). -/
def Params.initial : Params :=
  { hasCal := true, adcDiv := .d4095, rxqDepth := none, calLatency := 0, uartBitOrder := .lsbFirst }

/-- One calibration point: a detector voltage in volts and a power in dBm (R97). -/
structure CalPoint where
  volt : CalNum
  power : CalNum
deriving DecidableEq, Repr

/-- One calibration key: its frequency in Hz and its points (R97). -/
structure CalKey where
  freq : CalNum
  points : List CalPoint
deriving DecidableEq, Repr

/-- `CAL_TABLE`: the list of keys (R97). -/
abbrev CalTable := List CalKey

end Sys2Proof
end

