-- ==== Sys2Proof/Machine/CalMath.lean ====
section
/-! DEFINITION. The mathematics of the calibration datapath over the exact rationals (42_calibration.md R97 to R106):
table reads, the load check, `Lerp`, `PwLin` and the two stages. -/
namespace Sys2Proof.Machine

/-- The divisor as a number (R9). -/
def adcDivisor : AdcDiv → CalNum
  | .d4095 => 4095
  | .d4096 => 4096

/-- The frequencies `TabF(0), ..., TabF(NF-1)` (R97). -/
def tabFreqs (t : CalTable) : List CalNum := t.map CalKey.freq

/-- The points of key `k`; none for a key the table does not have (R97). -/
def tabPoints (t : CalTable) (k : Nat) : List CalPoint :=
  match t[k]? with
  | some key => key.points
  | none => []

/-- The voltages `TabV(k, 0), ..., TabV(k, NP[k]-1)` (R97). -/
def tabVolts (t : CalTable) (k : Nat) : List CalNum := (tabPoints t k).map CalPoint.volt

/-- The powers `TabP(k, 0), ..., TabP(k, NP[k]-1)` (R97). -/
def tabPowers (t : CalTable) (k : Nat) : List CalNum := (tabPoints t k).map CalPoint.power

/-- Strictly ascending (R98 item 5, R99). -/
def ascending : List CalNum → Bool
  | [] => true
  | [_] => true
  | x :: y :: t => decide (x < y) && ascending (y :: t)

/-- Non-decreasing, the premise of R112. -/
def nonDecreasing : List CalNum → Bool
  | [] => true
  | [_] => true
  | x :: y :: t => decide (x ≤ y) && nonDecreasing (y :: t)

/-- No number occurs twice: the keys are unique (R98 item 3). -/
def allDistinct : List CalNum → Bool
  | [] => true
  | x :: t => decide (x ∉ t) && allDistinct t

/-- Items 2, 4 and 5 of R98 for one key: at least two points, voltages strictly ascending. -/
def keyOk (k : CalKey) : Bool :=
  decide (2 ≤ k.points.length) && ascending (k.points.map CalPoint.volt)

/-- The load check of R98 on a table as supplied, its keys in any order (R99). -/
def loadCheck (t : CalTable) : Bool :=
  decide (2 ≤ t.length) && t.all keyOk && allDistinct (tabFreqs t)

/-- Put a key before the first key of higher frequency (R99). -/
def insertKey (k : CalKey) : CalTable → CalTable
  | [] => [k]
  | x :: t => if k.freq ≤ x.freq then k :: x :: t else x :: insertKey k t

/-- The keys in ascending frequency: a table supplied in another order is sorted at load (R99). -/
def sortKeys : CalTable → CalTable
  | [] => []
  | k :: t => insertKey k (sortKeys t)

/-- A loaded table: at least two keys numbered in strictly ascending frequency, each passing its check (R98, R99). -/
def tableWf (t : CalTable) : Bool :=
  decide (2 ≤ t.length) && t.all keyOk && ascending (tabFreqs t)

/-- `Lerp`: the value at `x` of the line through two points, inside or outside their interval (R101). -/
def lerp (x0 y0 x1 y1 x : CalNum) : CalNum := y0 + (y1 - y0) * (x - x0) / (x1 - x0)

/-- Among the first `m` abscissae, the largest index `j` with `xs[j] <= x`, or 0 if there is none (R102). -/
def lastIndexLe (xs : List CalNum) (x : CalNum) : Nat → Nat
  | 0 => 0
  | m + 1 => if xs.getD m 0 ≤ x then m else lastIndexLe xs x m

/-- The segment of `x`: the largest `j` in `0 .. n-2` with `xs[j] <= x`, or 0 (R102). -/
def segment (xs : List CalNum) (x : CalNum) : Nat := lastIndexLe xs x (xs.length - 1)

/-- `PwLin`: the line of the segment of `x`, evaluated at `x` (R102). -/
def pwLin (xs ys : List CalNum) (x : CalNum) : CalNum :=
  lerp (xs.getD (segment xs x) 0) (ys.getD (segment xs x) 0)
    (xs.getD (segment xs x + 1) 0) (ys.getD (segment xs x + 1) 0) x

/-- `CODE2V`: `VREF * code / ADC_DIV` (R103). -/
def codeToVoltage (d : AdcDiv) (code : Sample) : CalNum :=
  Config.vref * ((code.toNat : Nat) : CalNum) / adcDivisor d

/-- `CAL_STAGE1`: the curve of key `k` at the voltage `v` (R105). -/
def stage1 (t : CalTable) (k : Nat) (v : CalNum) : CalNum := pwLin (tabVolts t k) (tabPowers t k) v

/-- The estimates `E[0], ..., E[NF-1]`, one for every key (R104, R105). -/
def estimates (t : CalTable) (v : CalNum) : List CalNum :=
  (List.range t.length).map (fun k => stage1 t k v)

/-- `CAL_STAGE2`: the estimates across frequency (R106). -/
def stage2 (t : CalTable) (E : List CalNum) (f : CalNum) : CalNum := pwLin (tabFreqs t) E f

/-- `CAL_EVAL`: both stages, then the offset once (R104). -/
def calPower (t : CalTable) (v f : CalNum) : CalNum := stage2 t (estimates t v) f + Config.calOffsetDb

end Sys2Proof.Machine
end

