-- ==== Sys2Proof/Machine/Operands.lean ====
section
/-! DEFINITION. Operand forms of the reader: the byte classes (30_encoding.md R56), nibble extraction and sample
assembly (R57, R151), and the frame of a sample (R58). -/
namespace Sys2Proof.Machine

/-- The sync class of `WAIT_SYNC`: `b = 0xFF` (R56; R151 operation 1). -/
def isSync (b : Byte) : Bool := decide (b = Config.syncByte)

/-- The valid-high class of `READ_HIGH_BYTE`: `b & 0xF0 = 0x00` (R56; R151 operation 2). -/
def isValidHigh (b : Byte) : Bool := decide (b &&& Config.highMask = Config.highExpect)

/-- `b[3:0]`, the lower nibble (R11; R151 operation 3). -/
def lowNibble (b : Byte) : Nibble := b.extractLsb' 0 4

/-- `sample[11:0] = hi[3:0], b[7:0]`, which is `(hi << 8) | b` (R57; R151 operation 4). -/
def assembleSample (hi : Nibble) (b : Byte) : Sample := hi ++ b

/-- `Frame(s)`: the three bytes `0xFF`, `zext_8(s[11:8])`, `s[7:0]` (R58). -/
def frame (s : Sample) : List Byte :=
  [Config.syncByte, (s.extractLsb' 8 4).setWidth 8, s.extractLsb' 0 8]

end Sys2Proof.Machine
end

