-- ==== Sys2Proof/Syntax.lean ====
section
/-! DEFINITION. The instructions of the block: one constructor per row of spec/opcode_table.json. An instruction is
one event executed by a reader in one step, or one operation of the calibration datapath (00_scope.md R2). -/
namespace Sys2Proof

/-- The sixteen rows of the opcode table: five byte events (R74 to R78), six control events (R81 to R86) and five
datapath operations (R103 to R106, R109). -/
inductive Instr where
  /-- `WS_SYNC`: the sync byte is found (R74) -/
  | wsSync
  /-- `WS_SKIP`: the byte `b` is discarded while searching (R75) -/
  | wsSkip (b : Byte)
  /-- `RH_ACCEPT`: a valid high byte whose lower nibble is `n` (R76) -/
  | rhAccept (n : Nibble)
  /-- `RH_REJECT`: the invalid high byte `b`, synchronization is lost (R77) -/
  | rhReject (b : Byte)
  /-- `RL_EMIT`: the low byte `b`, a sample is emitted (R78) -/
  | rlEmit (b : Byte)
  /-- `NOBYTE`: the reader was ready and nothing came (R81) -/
  | nobyte
  /-- `REQ`: start a request (R82) -/
  | req
  /-- `FLUSH`: discard stale bytes and any partial frame (R83) -/
  | flush
  /-- `CANCEL`: the stop signal (R84) -/
  | cancel
  /-- `DEVLOST`: the byte source is gone for good (R85) -/
  | devlost
  /-- `RESET` (R86) -/
  | reset
  /-- `CODE2V`: sample code to detector voltage (R103) -/
  | code2v (code : Sample)
  /-- `CAL_STAGE1`: the curve of key `k` at voltage `v` (R105) -/
  | calStage1 (k : Nat) (v : CalNum)
  /-- `CAL_STAGE2`: the estimates `E` across frequency, at `f` (R106) -/
  | calStage2 (E : List CalNum) (f : CalNum)
  /-- `CAL_EVAL`: voltage and frequency to power (R104) -/
  | calEval (v f : CalNum)
  /-- `SAMPLE_POWER`: sample code and frequency to a channel reading (R109) -/
  | samplePower (code : Sample) (f : CalNum)
deriving DecidableEq, Repr

end Sys2Proof
end

