-- ==== Sys2Proof/WellFormed.lean ====
section
/-! DEFINITION. Which instructions are terms of the specification: the byte classes of 30_encoding.md R56 exclude
`0xFF` from `WS_SKIP` and the sixteen valid high bytes from `RH_REJECT`, and stage 2 works on the estimates of at
least two keys (42_calibration.md R98 item 1, R106). -/
namespace Sys2Proof

/-- The static conditions on an instruction's own fields (R56, R63, R106). -/
def Instr.wellFormed : Instr → Bool
  | .wsSync => true
  | .wsSkip b => decide (b ≠ Config.syncByte)
  | .rhAccept _ => true
  | .rhReject b => decide (b &&& Config.highMask ≠ Config.highExpect)
  | .rlEmit _ => true
  | .nobyte => true
  | .req => true
  | .flush => true
  | .cancel => true
  | .devlost => true
  | .reset => true
  | .code2v _ => true
  | .calStage1 _ _ => true
  | .calStage2 E _ => decide (2 ≤ E.length)
  | .calEval _ _ => true
  | .samplePower _ _ => true

/-- Whether the instruction has an event word: the datapath operations have none (R63). -/
def Instr.hasWord : Instr → Bool
  | .wsSync => true
  | .wsSkip _ => true
  | .rhAccept _ => true
  | .rhReject _ => true
  | .rlEmit _ => true
  | .nobyte => true
  | .req => true
  | .flush => true
  | .cancel => true
  | .devlost => true
  | .reset => true
  | .code2v _ => false
  | .calStage1 _ _ => false
  | .calStage2 _ _ => false
  | .calEval _ _ => false
  | .samplePower _ _ => false

end Sys2Proof
end

