-- ==== Sys2Proof/Decode.lean ====
section
/-! DEFINITION. The event word (30_encoding.md R61), its decoder (R67), total on all 8192 words and rejecting by name,
and its encoder (R63, R70). The word is a table device of the specification and no bus of the hardware (R61). -/
namespace Sys2Proof

/-- Why a 13-bit word names no event (R64, R67). -/
inductive DecodeReject where
  /-- `kind = 0b111` is reserved -/
  | reservedKind
  /-- `kind = BYTE` with `st = 0b11`, which names no protocol state -/
  | noSuchState
deriving DecidableEq, Repr

/-- The code of a protocol state (R60). -/
def ProtoState.code : ProtoState → BitVec 2
  | .waitSync => 0b00#2
  | .readHigh => 0b01#2
  | .readLow => 0b10#2

/-- The protocol state a code names, if any (R60). -/
def ProtoState.ofCode (c : BitVec 2) : Option ProtoState :=
  if c = 0b00#2 then some .waitSync
  else if c = 0b01#2 then some .readHigh
  else if c = 0b10#2 then some .readLow
  else none

/-- The kind code of an event (R62). -/
def Event.kind : Event → BitVec 3
  | .byte _ => 0b000#3
  | .nobyte => 0b001#3
  | .req => 0b010#3
  | .flush => 0b011#3
  | .cancel => 0b100#3
  | .devlost => 0b101#3
  | .reset => 0b110#3

/-- The byte field of an event's word: the byte popped, or `0x00` by the convention of R61. -/
def Event.byteField : Event → Byte
  | .byte b => b
  | .nobyte => 0x00#8
  | .req => 0x00#8
  | .flush => 0x00#8
  | .cancel => 0x00#8
  | .devlost => 0x00#8
  | .reset => 0x00#8

/-- The 13-bit word of three fields (R61). -/
def packWord (kind : BitVec 3) (st : BitVec 2) (b : Byte) : EventWord := kind ++ st ++ b

/-- The word of an event met in protocol state `st` (R61, R70). -/
def eventWord (st : ProtoState) (e : Event) : EventWord := packWord e.kind st.code e.byteField

/-- `w[12:10]` (R61). -/
def kindField (w : EventWord) : BitVec 3 := w.extractLsb' 10 3

/-- `w[9:8]` (R61). -/
def stField (w : EventWord) : BitVec 2 := w.extractLsb' 8 2

/-- `w[7:0]` (R61). -/
def wordByte (w : EventWord) : Byte := w.extractLsb' 0 8

/-- Which byte event a popped byte is: it follows from `st` and the byte, and from nothing else (R56, R73). -/
def classify (st : ProtoState) (b : Byte) : Instr :=
  match st with
  | .waitSync => if Machine.isSync b then .wsSync else .wsSkip b
  | .readHigh => if Machine.isValidHigh b then .rhAccept (Machine.lowNibble b) else .rhReject b
  | .readLow => .rlEmit b

/-- The decoding procedure of R67, total on all 8192 words. -/
def decode (w : EventWord) : Except DecodeReject Instr :=
  if kindField w = 0b111#3 then .error .reservedKind
  else if kindField w = 0b001#3 then .ok .nobyte
  else if kindField w = 0b010#3 then .ok .req
  else if kindField w = 0b011#3 then .ok .flush
  else if kindField w = 0b100#3 then .ok .cancel
  else if kindField w = 0b101#3 then .ok .devlost
  else if kindField w = 0b110#3 then .ok .reset
  else
    match ProtoState.ofCode (stField w) with
    | none => .error .noSuchState
    | some st => .ok (classify st (wordByte w))

/-- The operation presented at the calibration ports as an instruction: it has no word to decode (R63). -/
def decodeDatapath : DpOp → Instr
  | .code2v code => .code2v code
  | .calStage1 k v => .calStage1 k v
  | .calStage2 E f => .calStage2 E f
  | .calEval v f => .calEval v f
  | .samplePower code f => .samplePower code f

/-- The word of an instruction met in state `st`: a byte event carries its own state, every other event the state it
meets and the byte `0x00` (R61, R63, R70). A datapath operation has none (R63). -/
def encodeAt (st : ProtoState) : Instr → Option EventWord
  | .wsSync => some (packWord 0b000#3 ProtoState.waitSync.code Config.syncByte)
  | .wsSkip b => some (packWord 0b000#3 ProtoState.waitSync.code b)
  | .rhAccept n => some (packWord 0b000#3 ProtoState.readHigh.code (n.setWidth 8))
  | .rhReject b => some (packWord 0b000#3 ProtoState.readHigh.code b)
  | .rlEmit b => some (packWord 0b000#3 ProtoState.readLow.code b)
  | .nobyte => some (packWord 0b001#3 st.code 0x00#8)
  | .req => some (packWord 0b010#3 st.code 0x00#8)
  | .flush => some (packWord 0b011#3 st.code 0x00#8)
  | .cancel => some (packWord 0b100#3 st.code 0x00#8)
  | .devlost => some (packWord 0b101#3 st.code 0x00#8)
  | .reset => some (packWord 0b110#3 st.code 0x00#8)
  | .code2v _ => none
  | .calStage1 _ _ => none
  | .calStage2 _ _ => none
  | .calEval _ _ => none
  | .samplePower _ _ => none

/-- The word of an instruction met in `WAIT_SYNC`. -/
def encode (i : Instr) : Option EventWord := encodeAt .waitSync i

/-- `match` of the instruction's row (R63, spec/opcode_table.json); 0 for a row without a word. -/
def rowMatch : Instr → EventWord
  | .wsSync => 0x00FF#13
  | .wsSkip _ => 0x0000#13
  | .rhAccept _ => 0x0100#13
  | .rhReject _ => 0x0100#13
  | .rlEmit _ => 0x0200#13
  | .nobyte => 0x0400#13
  | .req => 0x0800#13
  | .flush => 0x0C00#13
  | .cancel => 0x1000#13
  | .devlost => 0x1400#13
  | .reset => 0x1800#13
  | .code2v _ => 0#13
  | .calStage1 _ _ => 0#13
  | .calStage2 _ _ => 0#13
  | .calEval _ _ => 0#13
  | .samplePower _ _ => 0#13

/-- `mask` of the instruction's row (R63, spec/opcode_table.json); 0 for a row without a word. -/
def rowMask : Instr → EventWord
  | .wsSync => 0x1FFF#13
  | .wsSkip _ => 0x1F00#13
  | .rhAccept _ => 0x1FF0#13
  | .rhReject _ => 0x1F00#13
  | .rlEmit _ => 0x1F00#13
  | .nobyte => 0x1C00#13
  | .req => 0x1C00#13
  | .flush => 0x1C00#13
  | .cancel => 0x1C00#13
  | .devlost => 0x1C00#13
  | .reset => 0x1C00#13
  | .code2v _ => 0#13
  | .calStage1 _ _ => 0#13
  | .calStage2 _ _ => 0#13
  | .calEval _ _ => 0#13
  | .samplePower _ _ => 0#13

/-- The instruction the decoder reads from a table word: bit 0 of `w` is bit 0 of the event word. `none` where the
decoder refuses, where `w` does not fit in 13 bits, or where `nbits` is less than a word. -/
def decodeTableWord (nbits w : Nat) : Option Instr :=
  if nbits < 13 ∨ 8192 ≤ w then none
  else
    match decode (BitVec.ofNat 13 w) with
    | .ok i => some i
    | .error _ => none

end Sys2Proof
end

