-- ==== Sys2Proof/Machine/State.lean ====
section
/-! DEFINITION. The state of the machine as plain data: two readers with their six registers (10_state.md R14, R33),
their byte queues (R34), the calibration datapath in flight (R32, R111), the calibration table (R24), and the model's
own fields: the label and result of the last step, the reader addressed, the events of the present clock cycle still to
be applied, the environment's inputs still to come, and the open parameters. -/
namespace Sys2Proof.Machine

/-- The six registers of a reader, 21 bits in all (R14). -/
structure Reader where
  /-- `st`, the protocol state register (R17) -/
  st : ProtoState
  /-- `hi`, the high nibble register (R15) -/
  hi : Nibble
  /-- `armed`, the request flag (R18) -/
  armed : Bool
  /-- `fatal`, the sticky device-lost flag (R19) -/
  fatal : Bool
  /-- `smp_data`, the sample output register (R16) -/
  smpData : Sample
  /-- `smp_valid`, the emit strobe (R20) -/
  smpValid : Bool
deriving DecidableEq, Repr

/-- The register values after a `RESET` step (R30, R86). -/
def Reader.reset : Reader :=
  { st := .waitSync, hi := 0#4, armed := false, fatal := false, smpData := 0#12, smpValid := false }

/-- The result of a datapath operation: the right-hand names of R103 to R106 and R109. -/
inductive CalResult where
  /-- `v` of `CODE2V` (R103) -/
  | voltage (v : CalNum)
  /-- `E[k]` of `CAL_STAGE1` (R105) -/
  | estimate (k : Nat) (e : CalNum)
  /-- `p` of `CAL_STAGE2`, before the offset (R106) -/
  | interpolated (p : CalNum)
  /-- `power` of `CAL_EVAL` (R104) -/
  | power (p : CalNum)
  /-- the channel reading of `SAMPLE_POWER`: frequency and power (R109) -/
  | reading (f p : CalNum)
deriving DecidableEq, Repr

/-- One operation in flight in the calibration datapath: the clock edges still to wait and its operands (R32, R111). -/
structure InFlight where
  wait : Nat
  code : Sample
  freq : CalNum
deriving DecidableEq, Repr

/-- One detector channel: its reader, its byte source's queue and its calibration datapath (R13, R22, R33). -/
structure Lane where
  /-- the reader's registers -/
  reader : Reader
  /-- `rxq`, oldest byte first (R34) -/
  rxq : List Byte
  /-- operations in flight, oldest first (R32, R111) -/
  flight : List InFlight
  /-- the result on the datapath's output; `none` is `cal_out_valid = 0` (R111) -/
  calRes : Option CalResult
deriving DecidableEq, Repr

/-- The outcome label of a step (R114). A step has exactly one; it is held in no register of the block, and here only
because a step answers nothing but a state. -/
inductive Label where
  /-- code 0, `NONE`: nothing to report -/
  | nothing
  /-- code 1, `EMIT`: a sample was produced -/
  | emit
  /-- code 2, `TRANSIENT_IO`: no byte available yet -/
  | transientIo
  /-- code 3, `SYNC_FAULT`: invalid high byte; the label carries the byte (R117) -/
  | syncFault (b : Byte)
  /-- code 4, `CANCELLED`: a request was ended by the stop signal -/
  | cancelled
  /-- code 5, `DEVICE_LOST`: the byte source is gone -/
  | deviceLost
  /-- code 6, `CONFIG_ERROR`: malformed calibration table, outside the block; no state carries it (R120) -/
  | configError
deriving DecidableEq, Repr

/-- What a clock edge or the environment has put before a reader: one step each. -/
inductive Task where
  /-- the event `e` for the reader of channel `c` (R2, R68) -/
  | event (c : Chan) (e : Event)
  /-- an event word written out, for the reader of channel `c` (R61, R70) -/
  | word (c : Chan) (w : EventWord)
  /-- a datapath operation of channel `c` (R63) -/
  | datapath (c : Chan) (op : DpOp)
deriving DecidableEq, Repr

/-- What drives the calibration inputs of one channel at a clock edge (R111). -/
inductive CalDrive where
  /-- `cal_in_valid = 0` -/
  | off
  /-- `cal_in_valid = 1` with this code and frequency -/
  | direct (code : Sample) (f : CalNum)
  /-- the intended wiring: `cal_in_valid = smp_valid`, `cal_in_code = smp_data`, the frequency held by the controller -/
  | wired (f : CalNum)
deriving DecidableEq, Repr

/-- The input pins of one channel at a clock edge (R22, R111). `rx_valid` and `rx_data` are not here: they show `rxq`
(R35). `cancel` is not here: one level drives both readers (R33, R131). -/
structure ReaderPins where
  rst : Bool
  rxLost : Bool
  req : Bool
  flush : Bool
  cal : CalDrive
deriving DecidableEq, Repr

/-- All pins of one channel low. -/
def ReaderPins.low : ReaderPins := { rst := false, rxLost := false, req := false, flush := false, cal := .off }

/-- The input pins of both channels at a clock edge, and the one stop signal (R22, R33, R121). -/
structure Pins where
  a : ReaderPins
  b : ReaderPins
  cancel : Bool
deriving DecidableEq, Repr

/-- A clock edge with every input pin low. -/
def Pins.low : Pins := { a := .low, b := .low, cancel := false }

/-- What the environment does next (R13, R27): the oracle the model quantifies over, as a list in the state. -/
inductive Input where
  /-- one step of the event level (R89) -/
  | present (t : Task)
  /-- the byte source of channel `c` appends `b` to its queue (R36) -/
  | arrive (c : Chan) (b : Byte)
  /-- a rising clock edge with these pins (R80) -/
  | cycle (p : Pins)
  /-- the calibration table is supplied for its load check (R98, R140) -/
  | loadTable (t : CalTable)
deriving DecidableEq, Repr

/-- Reasons a step stops with a fault. There is none: the specification gives the block no fault that stops it; its
faults are labels of steps that go on (R114, R123, R127). -/
inductive Fault where
deriving DecidableEq, Repr

/-- Reasons a step has no meaning. Each is safe: the model stops where the specification says that there is no step or
gives the case no meaning. -/
inductive Refusal where
  /-- raised by `exec` for an instruction without a meaning yet; none is left; safe -/
  | notModelled (mnemonic : String)
  /-- raised by `step` for a word that names no event (R64, R67, U4); safe -/
  | undecodable (why : DecodeReject)
  /-- raised by a byte event or `NOBYTE` while `fatal = 1`: no such step (R71, R87); safe -/
  | readerFatal
  /-- raised by a byte event or `NOBYTE` while `armed = 0`: no such step (R71, R87); safe -/
  | readerIdle
  /-- raised by a byte event while `rxq` is empty: no such step (R35, R71); safe -/
  | queueEmpty
  /-- raised by a byte event that is not the one `st` and the oldest byte of `rxq` name: no such step (R73); safe -/
  | otherEvent
  /-- raised by `NOBYTE` while `rxq` holds a byte: its precondition fails (R81, R87); safe -/
  | queueNotEmpty
  /-- raised by an arrival at a full queue of bounded depth (R34, U3); safe -/
  | queueFull
  /-- raised by a datapath operation, a table load or a driven calibration port where `HAS_CAL` is false (R8); safe -/
  | noCalDatapath
  /-- raised by a datapath operation or a driven calibration port before a table is loaded (R120, R140); safe -/
  | noCalTable
  /-- raised by a table load that fails the check, label code 6 (R98, R120, U9), and by an operation on such a table,
  which no run reaches; safe -/
  | configError
  /-- raised by a second table load: the table is loaded once (R24, R140); safe -/
  | tableAlreadyLoaded
  /-- raised by `CAL_STAGE1` of a key the table does not have (R105: `k` in `0 .. NF-1`); safe -/
  | noSuchKey
  /-- raised by `CAL_STAGE2` with other than `NF` estimates (R106); safe -/
  | wrongEstimateCount
deriving DecidableEq, Repr

/-- The whole machine. -/
structure State where
  /-- channel A -/
  laneA : Lane
  /-- channel B -/
  laneB : Lane
  /-- the calibration table, shared read-only by both channels; `none` until one is loaded (R24, R97, R140) -/
  table : Option CalTable
  /-- MODEL: the channel the running instruction is for -/
  sel : Chan
  /-- MODEL: the label of the last step, `none` where it executed no event (R114) -/
  label : Option Label
  /-- MODEL: what the present clock edge resolved to and is still to be applied, first first (R80) -/
  pending : List Task
  /-- MODEL: what the environment does next, first first (R27) -/
  inputs : List Input
  /-- MODEL: the open parameters; no step changes them (R9, R27) -/
  params : Params
deriving DecidableEq, Repr

/-- What one step or one instruction answers. -/
abbrev Result := Host.Outcome State Fault Refusal

/-- A channel after reset: the registers of R30, nothing in flight (R111), and an empty queue (log entry 3). -/
def Lane.reset : Lane := { reader := .reset, rxq := [], flight := [], calRes := none }

/-- The machine after `RESET` of both readers (R30, R135): no table loaded, no input presented. -/
def State.reset : State :=
  { laneA := .reset, laneB := .reset, table := none, sel := .a, label := some .nothing, pending := [], inputs := [],
    params := .initial }

end Sys2Proof.Machine
end

