-- ==== Sys2Proof/Machine/Flags.lean ====
section
/-! DEFINITION. The flags `armed`, `fatal` and `smp_valid` (10_state.md R18 to R20), the implicit clearing of
`smp_valid` (R12, R20), and the outputs computed from them (R23, R31, R111). -/
namespace Sys2Proof.Machine

/-- `smp_valid` is 0 after every step that does not write it (R12, R20). -/
def Reader.tick (r : Reader) : Reader := { r with smpValid := false }

/-- `emit(s)`: `smp_data <- s; smp_valid <- 1` (R12). -/
def Reader.emit (r : Reader) (s : Sample) : Reader := { r with smpData := s, smpValid := true }

/-- The output `busy` (R23). -/
def Reader.busy (r : Reader) : Bool := r.armed

/-- The sample on the output: there is one only where `smp_valid = 1` (R20, R31). -/
def Reader.sample (r : Reader) : Option Sample := if r.smpValid then some r.smpData else none

/-- The output `rx_ready`, from the registers and the pins before the edge (R23). -/
def Reader.rxReady (r : Reader) (p : ReaderPins) (cancel : Bool) : Bool :=
  r.armed && !r.fatal && !p.rst && !p.rxLost && !cancel && !p.flush

/-- The output `rx_flush` (R23). -/
def Reader.rxFlush (r : Reader) (p : ReaderPins) : Bool :=
  p.flush && !p.rst && !r.fatal && !p.rxLost

/-- The input `rx_valid` shows whether the queue holds a byte (R35). -/
def Lane.rxValid (l : Lane) : Bool := !l.rxq.isEmpty

/-- The outputs `cal_out_freq` and `cal_out_power`, with `cal_out_valid = 1` where there is a reading (R111). -/
def Lane.calOut (l : Lane) : Option (CalNum × CalNum) :=
  match l.calRes with
  | some (.reading f p) => some (f, p)
  | _ => none

/-- The number of a label (R114). -/
def Label.code : Label → Nat
  | .nothing => 0
  | .emit => 1
  | .transientIo => 2
  | .syncFault _ => 3
  | .cancelled => 4
  | .deviceLost => 5
  | .configError => 6

/-- The label of a step's outcome: the one the next state records, or `CONFIG_ERROR` where a table is refused
(R114, R120). -/
def outcomeLabel : Result → Option Label
  | .next s => s.label
  | .fault _ => none
  | .refused r => if r = .configError then some .configError else none

end Sys2Proof.Machine
end

