-- ==== Sys2Proof/Machine/Ops.lean ====
section
/-! DEFINITION. The named operations over the readers and their queues: the channel addressed, `RxPop` and `RxFlush`
(20_memory.md R35, R37), and the shared shapes of a byte event (40_byte_events.md R71 to R73), a control event
(41_control_events.md R87) and a datapath operation (42_calibration.md R96). The block has no trap entry and no return:
raising an exception records a label and saves nothing (60_exceptions.md R123, R124; 00_scope.md R12). -/
namespace Sys2Proof.Machine

/-- The channel other than `c`. -/
def otherChan : Chan → Chan
  | .a => .b
  | .b => .a

/-- The channel `c` of the machine. -/
def State.lane (s : State) : Chan → Lane
  | .a => s.laneA
  | .b => s.laneB

/-- Replace the channel `c`. -/
def State.setLane (s : State) (c : Chan) (l : Lane) : State :=
  match c with
  | .a => { s with laneA := l }
  | .b => { s with laneB := l }

/-- Address the channel `c`. -/
def State.select (s : State) (c : Chan) : State := { s with sel := c }

/-- The channel the running instruction is for. -/
def State.cur (s : State) : Lane := s.lane s.sel

/-- `raise`: record the outcome label of the step; `raise` alone changes no register (R12, R114, R123). -/
def State.raise (s : State) (lbl : Label) : State := { s with label := some lbl }

/-- The end of an instruction: the addressed channel becomes `l` and the step's label is `lbl`. -/
def State.finish (s : State) (l : Lane) (lbl : Label) : State := (s.setLane s.sel l).raise lbl

/-- The implicit `smp_valid <- 0` on a channel (R12, R20). -/
def Lane.tick (l : Lane) : Lane := { l with reader := l.reader.tick }

/-- `RxPop()`: the oldest byte and the channel without it; not enabled on an empty queue (R35). -/
def Lane.rxPop (l : Lane) : Option (Byte × Lane) :=
  match l.rxq with
  | [] => none
  | b :: t => some (b, { l with rxq := t })

/-- `RxFlush()`: every byte of the queue is discarded (R37). -/
def Lane.rxFlush (l : Lane) : Lane := { l with rxq := [] }

/-- A byte event `i`: it happens only while `armed = 1` and `fatal = 0` and `rxq` holds a byte (R71); it pops exactly one
byte (R72); it is the event that `st` and that byte name (R73). `act` is what it writes, from the popped byte. -/
def byteStep (i : Instr) (lbl : Label) (act : Byte → Reader → Reader) (s : State) : Result :=
  if s.cur.reader.fatal then .refused .readerFatal
  else if !s.cur.reader.armed then .refused .readerIdle
  else
    match s.cur.rxPop with
    | none => .refused .queueEmpty
    | some (b, l) =>
      if classify l.reader.st b = i then .next (s.finish { l with reader := act b l.reader.tick } lbl)
      else .refused .otherEvent

/-- A control event with the stated precondition `fatal = 0`: it writes `act` and has label `lbl`; on a fatal reader it
is a step that changes nothing but `smp_valid`, with label `NONE` (R87, 90_conflicts.md C7). -/
def controlStep (lbl : Label) (act : Lane → Lane) (s : State) : Result :=
  if s.cur.reader.fatal then .next (s.finish s.cur.tick .nothing)
  else .next (s.finish (act s.cur.tick) lbl)

/-- A datapath operation's end: its result stands on the channel's output, label `NONE`; no register of the reader is
read or written (R104, R108; spec/opcode_table.json). -/
def datapathStep (r : CalResult) (s : State) : Result :=
  .next (s.finish { s.cur with calRes := some r } .nothing)

end Sys2Proof.Machine
end

