-- ==== Sys2Proof/Machine/Calibration.lean ====
section
/-! DEFINITION. The five operations of the calibration datapath (42_calibration.md R103 to R106, R109), the load of the
table (R98, R99, R120, R140) and the pipeline that delays results (R111). -/
namespace Sys2Proof.Machine

/-- The table the operations may use: the datapath is present (R8), a table is loaded (R140), and it is well formed,
since no operation is defined on another (R98, U9). -/
def usableTable (s : State) : Except Refusal CalTable :=
  if s.params.hasCal then
    match s.table with
    | none => .error .noCalTable
    | some t => if tableWf t then .ok t else .error .configError
  else .error .noCalDatapath

/-- Run `k` on the usable table. -/
def withTable (s : State) (k : CalTable → Result) : Result :=
  match usableTable s with
  | .error r => .refused r
  | .ok t => k t

/-- `CODE2V` (R103). It reads no table entry, and like every operation runs only after the load check (R98, R120, R140). -/
def execCode2v (code : Sample) (s : State) : Result :=
  withTable s (fun _ => datapathStep (.voltage (codeToVoltage s.params.adcDiv code)) s)

/-- `CAL_STAGE1` (R105), for a key index in `0 .. NF-1`. -/
def execCalStage1 (k : Nat) (v : CalNum) (s : State) : Result :=
  withTable s (fun t =>
    if k < t.length then datapathStep (.estimate k (stage1 t k v)) s else .refused .noSuchKey)

/-- `CAL_STAGE2` (R106), for `NF` estimates. -/
def execCalStage2 (E : List CalNum) (f : CalNum) (s : State) : Result :=
  withTable s (fun t =>
    if E.length = t.length then datapathStep (.interpolated (stage2 t E f)) s else .refused .wrongEstimateCount)

/-- `CAL_EVAL` (R104). -/
def execCalEval (v f : CalNum) (s : State) : Result :=
  withTable s (fun t => datapathStep (.power (calPower t v f)) s)

/-- `SAMPLE_POWER` (R109): the reading `(f, CAL_EVAL(CODE2V(code), f))`. -/
def execSamplePower (code : Sample) (f : CalNum) (s : State) : Result :=
  withTable s (fun t => datapathStep (.reading f (calPower t (codeToVoltage s.params.adcDiv code) f)) s)

/-- The table load: once, checked, sorted by frequency; a table that fails the check is refused, label code 6
(R98, R99, R120, R140). -/
def loadTable (t : CalTable) (s : State) : Result :=
  if s.params.hasCal then
    match s.table with
    | some _ => .refused .tableAlreadyLoaded
    | none =>
      if loadCheck t then .next { s with table := some (sortKeys t), label := none } else .refused .configError
  else .refused .noCalDatapath

/-- The operations that leave the datapath at a clock edge: those with no edge left to wait (R111). -/
def leaving (q : List InFlight) : List InFlight := q.filter (fun x => x.wait = 0)

/-- The operations that stay in flight after a clock edge, each one edge nearer (R111). -/
def staying (q : List InFlight) : List InFlight :=
  (q.filter (fun x => x.wait ≠ 0)).map (fun x => { x with wait := x.wait - 1 })

/-- An operation entering at a clock edge waits `CAL_LATENCY` edges (R111). -/
def entering (latency : Nat) : Option (Sample × CalNum) → List InFlight
  | none => []
  | some (code, f) => [{ wait := latency, code := code, freq := f }]

/-- The operands on the calibration inputs of a channel at a clock edge, where `cal_in_valid = 1` (R111). -/
def calOperands (l : Lane) : CalDrive → Option (Sample × CalNum)
  | .off => none
  | .direct code f => some (code, f)
  | .wired f => if l.reader.smpValid then some (l.reader.smpData, f) else none

/-- What leaves a datapath at each of a row of clock edges, from the operands entering at each (R111). -/
def pipeOutputs (latency : Nat) : List InFlight → List (Option (Sample × CalNum)) → List (List (Sample × CalNum))
  | _, [] => []
  | q, x :: xs =>
    (leaving (q ++ entering latency x)).map (fun y => (y.code, y.freq)) ::
      pipeOutputs latency (staying (q ++ entering latency x)) xs

end Sys2Proof.Machine
end

