-- ==== Sys2Proof/Machine/Cycle.lean ====
section
/-! DEFINITION. The pin level: from the pins of one clock edge to events (41_control_events.md R80, R88), the clock edge
of the whole machine, and the arrival of a byte (20_memory.md R36). -/
namespace Sys2Proof.Machine

/-- `Resolve(pins, armed, fatal)` of R80. `offered` is the byte on `rx_data` where `rx_valid = 1`. -/
def resolve (r : Reader) (p : ReaderPins) (cancel : Bool) (offered : Option Byte) : List Event :=
  if p.rst then [.reset]
  else if r.fatal then []
  else if p.rxLost then [.devlost]
  else
    (if cancel then [.cancel] else []) ++
    (if p.flush then [.flush] else []) ++
    (if p.req && !cancel then [.req] else []) ++
    (if r.armed && !cancel && !p.flush then
      [match offered with
        | some b => .byte b
        | none => .nobyte]
     else [])

/-- The events of one channel at a clock edge: `rx_data` shows the oldest byte of `rxq` (R35, R80). -/
def laneEvents (p : ReaderPins) (cancel : Bool) (l : Lane) : List Event :=
  resolve l.reader p cancel l.rxq.head?

/-- The operands entering a channel's datapath at a clock edge; `rst` beats every other pin (R135). -/
def laneEntering (p : ReaderPins) (l : Lane) : Option (Sample × CalNum) :=
  if p.rst then none else calOperands l p.cal

/-- A channel's datapath queue at a clock edge, with what enters now behind what is in flight (R111). -/
def laneFlight (latency : Nat) (p : ReaderPins) (l : Lane) : List InFlight :=
  l.flight ++ entering latency (laneEntering p l)

/-- What one channel has to do at a clock edge: its events in the order of R80, then the datapath operation that leaves
now, if any. A reset drops what is in flight (R111, log entry 5). -/
def laneTasks (latency : Nat) (c : Chan) (p : ReaderPins) (cancel : Bool) (l : Lane) : List Task :=
  (laneEvents p cancel l).map (Task.event c) ++
  (if p.rst then []
   else (leaving (laneFlight latency p l)).map (fun x => Task.datapath c (.samplePower x.code x.freq)))

/-- One channel at a clock edge, before its events are applied: an idle cycle clears `smp_valid` (R20, R88),
`cal_out_valid` falls, and the datapath moves on by one edge (R111). -/
def laneEdge (latency : Nat) (p : ReaderPins) (cancel : Bool) (l : Lane) : Lane :=
  { reader := if (laneEvents p cancel l).isEmpty then l.reader.tick else l.reader
    rxq := l.rxq
    flight := staying (laneFlight latency p l)
    calRes := none }

/-- The machine at a clock edge: what both channels have to do is queued, channel A's first (R80, R131). -/
def edgeState (p : Pins) (s : State) : State :=
  { s with
    laneA := laneEdge s.params.calLatency p.a p.cancel s.laneA
    laneB := laneEdge s.params.calLatency p.b p.cancel s.laneB
    label := none
    pending :=
      laneTasks s.params.calLatency .a p.a p.cancel s.laneA ++
      laneTasks s.params.calLatency .b p.b p.cancel s.laneB }

/-- Whether some channel's `cal_in_valid` is 1 at this edge. -/
def calDriven (p : Pins) (s : State) : Bool :=
  (laneEntering p.a s.laneA).isSome || (laneEntering p.b s.laneB).isSome

/-- A rising clock edge. A table must be loaded before the first `cal_in_valid` (R140). -/
def edge (p : Pins) (s : State) : Result :=
  if calDriven p s then
    match usableTable s with
    | .error r => .refused r
    | .ok _ => .next (edgeState p s)
  else .next (edgeState p s)

/-- The pins of channel `c`. -/
def Pins.chan (p : Pins) : Chan → ReaderPins
  | .a => p.a
  | .b => p.b

/-- Whether the queue of a channel has no room (R34): never, where `RXQ_DEPTH` is unbounded. -/
def queueFull (p : Params) (l : Lane) : Bool :=
  match p.rxqDepth with
  | none => false
  | some d => decide (d ≤ l.rxq.length)

/-- The byte source of channel `c` appends `b` at the young end of its queue; an arrival at a full queue has no meaning
(R34, R36). No register of a reader changes. -/
def arrive (c : Chan) (b : Byte) (s : State) : Result :=
  if queueFull s.params (s.lane c) then .refused .queueFull
  else .next { s.setLane c { s.lane c with rxq := (s.lane c).rxq ++ [b] } with label := none }

end Sys2Proof.Machine
end

