-- ==== Sys2Proof/Machine/ByteEvents.lean ====
section
/-! DEFINITION. The five byte events (40_byte_events.md R74 to R78): the protocol state machine. -/
namespace Sys2Proof.Machine

/-- `WS_SYNC` (R74): `st <- READ_HIGH_BYTE`. -/
def execWsSync (s : State) : Result :=
  byteStep .wsSync .nothing (fun _ r => { r with st := .readHigh }) s

/-- `WS_SKIP` (R75): the byte is discarded, nothing is written. -/
def execWsSkip (b : Byte) (s : State) : Result :=
  byteStep (.wsSkip b) .nothing (fun _ r => r) s

/-- `RH_ACCEPT` (R76): `hi <- b[3:0]; st <- READ_LOW_BYTE`. -/
def execRhAccept (n : Nibble) (s : State) : Result :=
  byteStep (.rhAccept n) .nothing (fun b r => { r with hi := lowNibble b, st := .readLow }) s

/-- `RH_REJECT` (R77): raise `SyncFault(b)`; `st <- WAIT_SYNC`; the byte is dropped and the request goes on. -/
def execRhReject (b : Byte) (s : State) : Result :=
  byteStep (.rhReject b) (.syncFault b) (fun _ r => { r with st := .waitSync }) s

/-- `RL_EMIT` (R78): `emit((hi << 8) | b); armed <- 0; st <- WAIT_SYNC`. -/
def execRlEmit (b : Byte) (s : State) : Result :=
  byteStep (.rlEmit b) .emit
    (fun x r => { r.emit (assembleSample r.hi x) with armed := false, st := .waitSync }) s

end Sys2Proof.Machine
end

