-- ==== Sys2Proof/Machine/ControlEvents.lean ====
section
/-! DEFINITION. The six control events (41_control_events.md R81 to R86). -/
namespace Sys2Proof.Machine

/-- `NOBYTE` (R81): only while `armed = 1`, `fatal = 0` and `rxq` is empty; raise `TransientIO()`; unchanged. -/
def execNobyte (s : State) : Result :=
  if s.cur.reader.fatal then .refused .readerFatal
  else if !s.cur.reader.armed then .refused .readerIdle
  else if s.cur.rxValid then .refused .queueNotEmpty
  else .next (s.finish s.cur.tick .transientIo)

/-- `REQ` (R82): `armed <- 1` where it was 0; a request already outstanding ignores it. -/
def execReq (s : State) : Result :=
  controlStep .nothing
    (fun l => if l.reader.armed then l else { l with reader := { l.reader with armed := true } }) s

/-- `FLUSH` (R83): `RxFlush(); st <- WAIT_SYNC`; `armed` is left alone. -/
def execFlush (s : State) : Result :=
  controlStep .nothing
    (fun l => { l.rxFlush with reader := { l.reader with st := .waitSync } }) s

/-- `CANCEL` (R84): raise `Cancelled()` where a request was outstanding; `armed <- 0; st <- WAIT_SYNC`. -/
def execCancel (s : State) : Result :=
  controlStep (if s.cur.reader.armed then .cancelled else .nothing)
    (fun l => { l with reader := { l.reader with armed := false, st := .waitSync } }) s

/-- `DEVLOST` (R85): raise `DeviceLost()`; `fatal <- 1; armed <- 0; st <- WAIT_SYNC`. -/
def execDevlost (s : State) : Result :=
  controlStep .deviceLost
    (fun l => { l with reader := { l.reader with fatal := true, armed := false, st := .waitSync } }) s

/-- `RESET` (R86): in every state, all six registers to the values of R30; nothing stays in flight in the datapath
(R32, R111; log entry 5); `rxq`, the table and the other reader are not touched (R136). -/
def execReset (s : State) : Result :=
  .next (s.finish { reader := .reset, rxq := s.cur.rxq, flight := [], calRes := none } .nothing)

end Sys2Proof.Machine
end

