-- ==== Sys2Proof/Machine/Dispatch.lean ====
section
/-! DEFINITION. The meaning of every instruction: one arm per constructor. -/
namespace Sys2Proof.Machine

def exec (i : Instr) (s : State) : Host.Outcome State Fault Refusal :=
  match i with
  | .wsSync => Sys2Proof.Machine.execWsSync s
  | .wsSkip b => Sys2Proof.Machine.execWsSkip b s
  | .rhAccept n => Sys2Proof.Machine.execRhAccept n s
  | .rhReject b => Sys2Proof.Machine.execRhReject b s
  | .rlEmit b => Sys2Proof.Machine.execRlEmit b s
  | .nobyte => Sys2Proof.Machine.execNobyte s
  | .req => Sys2Proof.Machine.execReq s
  | .flush => Sys2Proof.Machine.execFlush s
  | .cancel => Sys2Proof.Machine.execCancel s
  | .devlost => Sys2Proof.Machine.execDevlost s
  | .reset => Sys2Proof.Machine.execReset s
  | .code2v code => Sys2Proof.Machine.execCode2v code s
  | .calStage1 k v => Sys2Proof.Machine.execCalStage1 k v s
  | .calStage2 E f => Sys2Proof.Machine.execCalStage2 E f s
  | .calEval v f => Sys2Proof.Machine.execCalEval v f s
  | .samplePower code f => Sys2Proof.Machine.execSamplePower code f s

end Sys2Proof.Machine
end

