-- ==== Sys2Proof/Machine/Step.lean ====
section
/-! DEFINITION. One step of the machine: the next event of the present clock edge, or the environment's next input
(41_control_events.md R80, R89). -/
namespace Sys2Proof.Machine

/-- Run the instruction an event word decodes to, for channel `c` (R67). -/
def runWord (c : Chan) (w : EventWord) (s : State) : Result :=
  match decode w with
  | .error r => .refused (.undecodable r)
  | .ok i => exec i (s.select c)

/-- The word of an event for channel `c`: its kind, the channel's `st` before the step, and its byte (R61, R70). -/
def fetchWord (c : Chan) (e : Event) (s : State) : EventWord := eventWord (s.lane c).reader.st e

/-- Run one task: an event is put into its word and decoded, a word is decoded, a datapath operation has no word. -/
def runTask (t : Task) (s : State) : Result :=
  match t with
  | .event c e => runWord c (fetchWord c e s) s
  | .word c w => runWord c w s
  | .datapath c op => exec (decodeDatapath op) (s.select c)

/-- Act on one input of the environment. -/
def runInput (x : Input) (s : State) : Result :=
  match x with
  | .present t => runTask t s
  | .arrive c b => arrive c b s
  | .cycle p => edge p s
  | .loadTable t => loadTable t s

/-- One step: first what the present clock edge still has to apply; then the environment's next input; where it
presents none, the clock goes on with every input pin low (log entry 4). -/
def step (s : State) : Host.Outcome State Fault Refusal :=
  match s.pending with
  | t :: ts => runTask t { s with pending := ts }
  | [] =>
    match s.inputs with
    | x :: xs => runInput x { s with inputs := xs }
    | [] => edge Pins.low s

/-- What channel A needs for the event word `w` to be the next step: for a byte event, a request outstanding, the state
the word names and its byte at the head of the queue (R71, R73); for `NOBYTE`, a request outstanding and an empty queue
(R81); for every other event nothing. -/
def readyFor (w : EventWord) (l : Lane) : Lane :=
  if kindField w = 0b000#3 then
    match ProtoState.ofCode (stField w) with
    | some st => { l with reader := { l.reader with st := st, armed := true, fatal := false }, rxq := wordByte w :: l.rxq }
    | none => l
  else if kindField w = 0b001#3 then
    { l with reader := { l.reader with armed := true, fatal := false }, rxq := [] }
  else l

/-- `s` with the event word of the bits of `w` presented to channel A as the very next step. -/
def State.withFetchWord (s : State) (_nbits w : Nat) : State :=
  { s with
    laneA := readyFor (BitVec.ofNat 13 w) s.laneA
    pending := Task.word .a (BitVec.ofNat 13 w) :: s.pending }

end Sys2Proof.Machine
end

