-- ==== Sys2Proof/Machine/Scan.lean ====
section
/-! DEFINITION. A request as a pure function of the bytes supplied to it (41_control_events.md R92), and the
pseudo-instructions of the event script (30_encoding.md R69). -/
namespace Sys2Proof.Machine

/-- The protocol states `WaitSync`, `ReadHigh`, `ReadLow(h)` of R92. -/
inductive ScanState where
  | waitSync
  | readHigh
  | readLow (h : Nibble)
deriving DecidableEq, Repr

/-- What a request makes of a byte list (R92). -/
inductive ScanResult where
  /-- the request emitted `s` and `rest` remains unread -/
  | done (s : Sample) (rest : List Byte)
  /-- the bytes ran out with the request outstanding in `q` -/
  | pending (q : ScanState)
deriving DecidableEq, Repr

/-- `Scan` of R92. -/
def scan : ScanState → List Byte → ScanResult
  | q, [] => .pending q
  | .waitSync, b :: t => if b = Config.syncByte then scan .readHigh t else scan .waitSync t
  | .readHigh, b :: t => if b &&& Config.highMask = Config.highExpect then scan (.readLow (lowNibble b)) t else scan .waitSync t
  | .readLow h, b :: t => .done (assembleSample h b) t

/-- `NextSample(bytes) = Scan(WaitSync, bytes)` (R92). -/
def nextSample (bytes : List Byte) : ScanResult := scan .waitSync bytes

/-- `BYTES b1 ... bk` (R69). -/
def bytesEvents (bs : List Byte) : List Event := bs.map Event.byte

/-- `FRAME n` (R69). -/
def frameEvents (s : Sample) : List Event := bytesEvents (frame s)

/-- `IDLE k` (R69). -/
def idleEvents (k : Nat) : List Event := List.replicate k Event.nobyte

/-- `SAMPLE`: `FLUSH`, then `REQ` (R69). -/
def sampleEvents : List Event := [.flush, .req]

end Sys2Proof.Machine
end

