-- ==== Sys2Proof/Safety.lean ====
section
/-! DEFINITION. What counts as a good state and a safe run (10_state.md R28, R29; 60_exceptions.md R127), and the words
the statements use: what an instruction leaves alone, and which protocol state a reader is in. -/
namespace Sys2Proof.Machine

/-- Invariants 2, 3 and 4 of R28 for one reader. Invariants 1 and 5 hold by the types. -/
abbrev Reader.Inv (r : Reader) : Prop :=
  (r.armed = false → r.st = .waitSync) ∧
  (r.fatal = true → r.armed = false) ∧
  (r.smpValid = true → r.armed = false ∧ r.st = .waitSync)

/-- What is in flight leaves in the order it entered, at most one at an edge, within the latency (R111). -/
abbrev flightInv (latency : Nat) (q : List InFlight) : Prop :=
  q.Pairwise (fun x y => x.wait < y.wait) ∧ ∀ x ∈ q, x.wait < latency

/-- The queue holds no more than `RXQ_DEPTH` bytes (R34). -/
def queueOk (p : Params) (q : List Byte) : Bool :=
  match p.rxqDepth with
  | none => true
  | some d => decide (q.length ≤ d)

/-- The invariants of one channel. -/
abbrev Lane.Inv (p : Params) (l : Lane) : Prop :=
  l.reader.Inv ∧ flightInv p.calLatency l.flight ∧ queueOk p l.rxq = true

/-- The loaded table, if any, passes the check and is sorted (R98, R99). -/
abbrev tableInv (t : Option CalTable) : Prop := (t.all tableWf) = true

/-- The invariants of the machine. -/
def State.Inv (s : State) : Prop :=
  s.laneA.Inv s.params ∧ s.laneB.Inv s.params ∧ tableInv s.table

/-- A run has gone wrong only where a reader is fatal (R127). -/
def State.Safe (s : State) : Prop := s.laneA.reader.fatal = false ∧ s.laneB.reader.fatal = false

/-- The five shapes of a reader (R29). -/
inductive Shape where
  | idle
  | waitSync
  | readHigh
  | readLow (h : Nibble)
  | fatal
deriving DecidableEq, Repr

/-- What R29 says of each shape. -/
def Shape.Describes (x : Shape) (r : Reader) : Prop :=
  match x with
  | .idle => r.armed = false ∧ r.fatal = false ∧ r.st = .waitSync
  | .waitSync => r.armed = true ∧ r.fatal = false ∧ r.st = .waitSync
  | .readHigh => r.armed = true ∧ r.fatal = false ∧ r.st = .readHigh
  | .readLow h => r.armed = true ∧ r.fatal = false ∧ r.st = .readLow ∧ r.hi = h
  | .fatal => r.fatal = true

/-- A reader's registers stand in the protocol state `q` of R92. -/
def ScanState.At (q : ScanState) (r : Reader) : Prop :=
  match q with
  | .waitSync => r.st = .waitSync
  | .readHigh => r.st = .readHigh
  | .readLow h => r.st = .readLow ∧ r.hi = h

/-- The events of the reader a byte can be (R79). -/
def isByteEvent : Instr → Bool
  | .wsSync => true
  | .wsSkip _ => true
  | .rhAccept _ => true
  | .rhReject _ => true
  | .rlEmit _ => true
  | .nobyte => false
  | .req => false
  | .flush => false
  | .cancel => false
  | .devlost => false
  | .reset => false
  | .code2v _ => false
  | .calStage1 _ _ => false
  | .calStage2 _ _ => false
  | .calEval _ _ => false
  | .samplePower _ _ => false

/-- What no instruction changes: the other channel whole, the table, the parameters, and what is still to come (R33). -/
def SameElsewhere (s t : State) : Prop :=
  t.lane (otherChan s.sel) = s.lane (otherChan s.sel) ∧ t.table = s.table ∧ t.params = s.params ∧
    t.sel = s.sel ∧ t.pending = s.pending ∧ t.inputs = s.inputs

end Sys2Proof.Machine
end

