-- ==== Sys2Proof/Certificates/Slice0/Obligations.lean ====
section
/-! DEFINITION. The statements for the provers. A docstring names the rule a statement formalises; where a clause rests on
a decision or derivation the specification marks as its own, or on a choice of the model, the docstring says so. Every
statement about the calibration datapath is over the exact rationals, the reference R100 gives (log entry 1). -/

open Sys2Proof Sys2Proof.Machine

-- ==== Encoding ====

/-- Words written out in the tables of 30_encoding.md R63 and R70 and 95_test_vectors.md 2.5 decode to the event they
stand for (the word itself is the specification's device, D12). -/
def Obligations.TableWordsDecodeToTheirEvents : Prop :=
  decode 0x00FF#13 = .ok .wsSync ∧ decode 0x00FE#13 = .ok (.wsSkip 0xFE#8) ∧
  decode 0x0100#13 = .ok (.rhAccept 0x0#4) ∧ decode 0x010F#13 = .ok (.rhAccept 0xF#4) ∧
  decode 0x010A#13 = .ok (.rhAccept 0xA#4) ∧ decode 0x0110#13 = .ok (.rhReject 0x10#8) ∧
  decode 0x01FF#13 = .ok (.rhReject 0xFF#8) ∧ decode 0x02BC#13 = .ok (.rlEmit 0xBC#8) ∧
  decode 0x07A5#13 = .ok .nobyte ∧ decode 0x0BFF#13 = .ok .req ∧ decode 0x0C00#13 = .ok .flush ∧
  decode 0x1234#13 = .ok .cancel ∧ decode 0x1400#13 = .ok .devlost ∧ decode 0x1BFF#13 = .ok .reset

/-- Decode and encode agree on every well-formed event, met in any protocol state; the datapath operations, and only
they, have no word (R61, R63, R67; spec decision D12). -/
def Obligations.DecodeInvertsEncode : Prop :=
  ∀ (st : ProtoState) (i : Instr), i.wellFormed = true →
    ((encodeAt st i).isSome = i.hasWord) ∧ ∀ w, encodeAt st i = some w → decode w = .ok i

/-- Whatever the decoder accepts is a well-formed event with the fixed bits of its row, and for a byte event, all of whose
bits take part, the encoder gives the same word back (R61, R63; spec decision D12). -/
def Obligations.DecodedWordsMatchTheirRow : Prop :=
  ∀ (w : EventWord) (i : Instr), decode w = .ok i →
    i.wellFormed = true ∧ i.hasWord = true ∧ w &&& rowMask i = rowMatch i ∧
      (isByteEvent i = true → encode i = some w)

/-- The decoder rejects exactly the reserved kind and `BYTE` with `st = 0b11`, each by its name: 1024 and 256 of the 8192
words (R64, R67; the specification marks R67 as derived). -/
def Obligations.DecoderRejectsExactlyTheReservedWords : Prop :=
  (∀ w : EventWord, decode w = .error .reservedKind ↔ w.extractLsb' 10 3 = 0b111#3) ∧
  (∀ w : EventWord, decode w = .error .noSuchState ↔ w.extractLsb' 10 3 = 0b000#3 ∧ w.extractLsb' 8 2 = 0b11#2)

/-- The byte classes of R56: in each state they are disjoint and cover all 256 bytes, with the counts the table gives. -/
def Obligations.ByteClassesCoverEveryByteOnce : Prop :=
  (∀ b : Byte, classify .waitSync b = if b = 0xFF#8 then .wsSync else .wsSkip b) ∧
  (∀ b : Byte, classify .readHigh b = if b.toNat ≤ 0x0F then .rhAccept (b.extractLsb' 0 4) else .rhReject b) ∧
  (∀ b : Byte, classify .readLow b = .rlEmit b) ∧
  ((List.range 256).filter (fun n => decide (classify .waitSync (BitVec.ofNat 8 n) = .wsSync))).length = 1 ∧
  ((List.range 256).filter (fun n => decide (classify .waitSync (BitVec.ofNat 8 n) = .wsSkip (BitVec.ofNat 8 n)))).length = 255 ∧
  ((List.range 256).filter (fun n => decide (classify .readHigh (BitVec.ofNat 8 n) = .rhAccept (BitVec.ofNat 4 n)))).length = 16 ∧
  ((List.range 256).filter (fun n => decide (classify .readHigh (BitVec.ofNat 8 n) = .rhReject (BitVec.ofNat 8 n)))).length = 240

/-- The word of an event met in any state decodes to the event's own instruction; a `BYTE` becomes the event its state and
byte name (R61, R62, R70, R73; spec decision D12). -/
def Obligations.EventWordDecodesInItsState : Prop :=
  ∀ (st : ProtoState) (e : Event), decode (eventWord st e) = .ok
    (match e with
      | .byte b => classify st b
      | .nobyte => .nobyte
      | .req => .req
      | .flush => .flush
      | .cancel => .cancel
      | .devlost => .devlost
      | .reset => .reset)

/-- Sample assembly (R57): `hi, b` is `(hi << 8) | b`, the number `256 * hi + b`, at most 4095, where `hi` is the lower nibble
of the accepted high byte, whose upper nibble contributes nothing. -/
def Obligations.SampleAssemblyIsShiftOr : Prop :=
  (∀ (hi : Nibble) (b : Byte),
    assembleSample hi b = (hi.setWidth 12 <<< 8) ||| b.setWidth 12 ∧
    (assembleSample hi b).toNat = 256 * hi.toNat + b.toNat ∧ (assembleSample hi b).toNat ≤ 4095) ∧
  (∀ h b : Byte, assembleSample (lowNibble h) b = assembleSample (lowNibble (h &&& 0x0F#8)) b ∧
    (h &&& 0xF0#8 = 0x00#8 → (assembleSample (lowNibble h) b).toNat = 256 * h.toNat + b.toNat))

/-- The frame of a sample is the inverse of assembly (R58, which the specification derives): three bytes, the sync byte, a
valid high byte and the low byte, from which the sample is assembled again. -/
def Obligations.FrameIsTheInverseOfAssembly : Prop :=
  ∀ s : Sample, (frame s).length = Config.frameBytes ∧ ∃ h b : Byte, frame s = [0xFF#8, h, b] ∧ h &&& 0xF0#8 = 0x00#8 ∧
    assembleSample (h.extractLsb' 0 4) b = s ∧ h.toNat = s.toNat / 256 ∧ b.toNat = s.toNat % 256

-- ==== What each event does, and where it completes ====

/-- `WS_SYNC` (R74), with every register it leaves alone. -/
def Obligations.WsSyncMovesToReadHigh : Prop :=
  encode .wsSync = some 0x00FF#13 ∧
  ∀ (s : State) (rest : List Byte),
    s.cur.reader.armed = true → s.cur.reader.fatal = false → s.cur.reader.st = .waitSync → s.cur.rxq = 0xFF#8 :: rest →
    ∃ t, exec .wsSync s = .next t ∧ t.label = some .nothing ∧ SameElsewhere s t ∧
      t.cur = { s.cur with
        reader := { s.cur.reader with st := .readHigh, smpValid := false }
        rxq := rest }

/-- `WS_SKIP` (R75): the byte is consumed and nothing is written. -/
def Obligations.WsSkipDiscardsTheByte : Prop :=
  ∀ (b : Byte), b ≠ 0xFF#8 → encode (.wsSkip b) = some (0b00000#5 ++ b) ∧
  ∀ (s : State) (rest : List Byte),
    s.cur.reader.armed = true → s.cur.reader.fatal = false → s.cur.reader.st = .waitSync → s.cur.rxq = b :: rest →
    ∃ t, exec (.wsSkip b) s = .next t ∧ t.label = some .nothing ∧ SameElsewhere s t ∧
      t.cur = { s.cur with reader := { s.cur.reader with smpValid := false }, rxq := rest }

/-- `RH_ACCEPT` (R76): the lower nibble goes to `hi`. -/
def Obligations.RhAcceptCapturesTheNibble : Prop :=
  ∀ (n : Nibble), encode (.rhAccept n) = some (0b000010000#9 ++ n) ∧
  ∀ (s : State) (rest : List Byte),
    s.cur.reader.armed = true → s.cur.reader.fatal = false → s.cur.reader.st = .readHigh →
    s.cur.rxq = (0b0000#4 ++ n) :: rest →
    ∃ t, exec (.rhAccept n) s = .next t ∧ t.label = some .nothing ∧ SameElsewhere s t ∧
      t.cur = { s.cur with
        reader := { s.cur.reader with hi := n, st := .readLow, smpValid := false }
        rxq := rest }

/-- `RH_REJECT` (R77): a sync fault; the byte is dropped, `0xFF` like any other, and the request goes on. -/
def Obligations.RhRejectReturnsToWaitSync : Prop :=
  ∀ (b : Byte), b.extractLsb' 4 4 ≠ 0x0#4 → encode (.rhReject b) = some (0b00001#5 ++ b) ∧
  ∀ (s : State) (rest : List Byte),
    s.cur.reader.armed = true → s.cur.reader.fatal = false → s.cur.reader.st = .readHigh → s.cur.rxq = b :: rest →
    ∃ t, exec (.rhReject b) s = .next t ∧ t.label = some (.syncFault b) ∧ SameElsewhere s t ∧
      t.cur = { s.cur with
        reader := { s.cur.reader with st := .waitSync, smpValid := false }
        rxq := rest }

/-- `RL_EMIT` (R78): the sample is emitted and the request answered (the clearing of `armed` is spec decision D4, the
strobe D5). -/
def Obligations.RlEmitEmitsTheSample : Prop :=
  ∀ (b : Byte) (s : State) (rest : List Byte),
    s.cur.reader.armed = true → s.cur.reader.fatal = false → s.cur.reader.st = .readLow → s.cur.rxq = b :: rest →
    ∃ t, exec (.rlEmit b) s = .next t ∧ t.label = some .emit ∧ SameElsewhere s t ∧
      t.cur = { s.cur with
        reader := { s.cur.reader with
          st := .waitSync, armed := false, smpValid := true, smpData := s.cur.reader.hi ++ b }
        rxq := rest }

/-- `NOBYTE` (R81, R116): nothing changes but the strobe (that one event stands for every cause is spec decision D6). -/
def Obligations.NobyteChangesNothing : Prop :=
  ∀ (s : State),
    s.cur.reader.armed = true → s.cur.reader.fatal = false → s.cur.rxq = [] →
    ∃ t, exec .nobyte s = .next t ∧ t.label = some .transientIo ∧ SameElsewhere s t ∧
      t.cur = { s.cur with reader := { s.cur.reader with smpValid := false } }

/-- `REQ` (R82, R87): a request starts where none is outstanding and is ignored where one is; `rxq` is not flushed
(spec decision D4). -/
def Obligations.ReqArmsAnIdleReader : Prop :=
  ∀ (s : State), s.cur.reader.fatal = false →
    ∃ t, exec .req s = .next t ∧ t.label = some .nothing ∧ SameElsewhere s t ∧
      t.cur = { s.cur with reader := { s.cur.reader with armed := true, smpValid := false } }

/-- `FLUSH` (R83, R51, R87): the queue is emptied, the partial frame is given up, `armed` is what it was (spec decision
D9). -/
def Obligations.FlushEmptiesTheQueue : Prop :=
  ∀ (s : State), s.cur.reader.fatal = false →
    ∃ t, exec .flush s = .next t ∧ t.label = some .nothing ∧ SameElsewhere s t ∧
      t.cur = { s.cur with reader := { s.cur.reader with st := .waitSync, smpValid := false }, rxq := [] }

/-- `CANCEL` (R84, R87, R119): the request ends without a sample, the queue is untouched; the label is `CANCELLED` only
where a request was outstanding (spec decision D8). -/
def Obligations.CancelEndsTheRequest : Prop :=
  ∀ (s : State), s.cur.reader.fatal = false →
    ∃ t, exec .cancel s = .next t ∧ SameElsewhere s t ∧
      t.label = some (if s.cur.reader.armed = true then .cancelled else .nothing) ∧
      t.cur = { s.cur with reader := { s.cur.reader with armed := false, st := .waitSync, smpValid := false } }

/-- `DEVLOST` (R85, R118): the sticky flag is set, whether or not a request is outstanding (spec decision D7). -/
def Obligations.DevlostSetsFatal : Prop :=
  ∀ (s : State), s.cur.reader.fatal = false →
    ∃ t, exec .devlost s = .next t ∧ t.label = some .deviceLost ∧ SameElsewhere s t ∧
      t.cur = { s.cur with
        reader := { s.cur.reader with fatal := true, armed := false, st := .waitSync, smpValid := false } }

/-- `RESET` (R86, R30, R136): in every state, all six registers take their reset values and `rxq` is kept (spec decision
D11); that the reader's own datapath is emptied with it is the model's choice (log entry 5, from R32 and R111). -/
def Obligations.ResetRestoresTheSixRegisters : Prop :=
  ∀ (s : State),
    ∃ t, exec .reset s = .next t ∧ t.label = some .nothing ∧ SameElsewhere s t ∧
      t.cur = {
        reader := { st := .waitSync, hi := 0x0#4, armed := false, fatal := false, smpData := 0x000#12, smpValid := false }
        rxq := s.cur.rxq
        flight := []
        calRes := none }

/-- A fatal reader (R87, R90): `REQ`, `FLUSH`, `CANCEL` and `DEVLOST` are steps that change nothing but the strobe; the
queue is not emptied (90_conflicts.md C7). -/
def Obligations.FatalReaderIgnoresControlEvents : Prop :=
  ∀ (s : State) (i : Instr), s.cur.reader.fatal = true → i ∈ [Instr.req, .flush, .cancel, .devlost] →
    ∃ t, exec i s = .next t ∧ t.label = some .nothing ∧ SameElsewhere s t ∧
      t.cur = { s.cur with reader := { s.cur.reader with smpValid := false } }

/-- Where a byte event and `NOBYTE` are no step (R71, R73, R81, R87; spec decision D4): on a fatal reader, on an idle one,
a byte event on an empty queue or one that is not the event `st` and the oldest byte name, `NOBYTE` on a queue that holds
a byte. The names of the refusals are the model's. -/
def Obligations.NoStepOutsideTheEnablingCondition : Prop :=
  (∀ (s : State) (i : Instr), (isByteEvent i = true ∨ i = .nobyte) → s.cur.reader.fatal = true →
    exec i s = .refused .readerFatal) ∧
  (∀ (s : State) (i : Instr), (isByteEvent i = true ∨ i = .nobyte) → s.cur.reader.fatal = false →
    s.cur.reader.armed = false → exec i s = .refused .readerIdle) ∧
  (∀ (s : State) (i : Instr), isByteEvent i = true → s.cur.reader.fatal = false → s.cur.reader.armed = true →
    s.cur.rxq = [] → exec i s = .refused .queueEmpty) ∧
  (∀ (s : State) (i : Instr) (b : Byte) (rest : List Byte), isByteEvent i = true → s.cur.reader.fatal = false →
    s.cur.reader.armed = true → s.cur.rxq = b :: rest → classify s.cur.reader.st b ≠ i →
    exec i s = .refused .otherEvent) ∧
  (∀ (s : State) (b : Byte) (rest : List Byte), s.cur.reader.fatal = false → s.cur.reader.armed = true →
    s.cur.rxq = b :: rest → exec .nobyte s = .refused .queueNotEmpty)

-- ==== Rules over all instructions ====

/-- A request ends in exactly four ways (R91; spec decision D26): the steps that clear `armed` are `RL_EMIT`, `CANCEL`,
`DEVLOST` and `RESET`, each of which clears it; and only `REQ` sets it. -/
def Obligations.OnlyFourEventsEndARequest : Prop :=
  ∀ (s t : State) (i : Instr), exec i s = .next t →
    (s.cur.reader.armed = true → s.cur.reader.fatal = false →
      (t.cur.reader.armed = false ↔ ((∃ b, i = .rlEmit b) ∨ i = .cancel ∨ i = .devlost ∨ i = .reset))) ∧
    (s.cur.reader.armed = false → t.cur.reader.armed = true → i = .req)

/-- `fatal` is sticky (R19, R85, R125; spec decision D7): only `RESET` clears it and only `DEVLOST` sets it. -/
def Obligations.OnlyResetClearsFatal : Prop :=
  ∀ (s t : State) (i : Instr), exec i s = .next t →
    (s.cur.reader.fatal = true → (t.cur.reader.fatal = false ↔ i = .reset)) ∧
    (s.cur.reader.fatal = false → (t.cur.reader.fatal = true ↔ i = .devlost))

/-- Who writes the data registers (R15, R16, R20): `hi` only `RH_ACCEPT` and `RESET`, `smp_data` only `RL_EMIT` and `RESET`;
after every event of the reader `smp_valid` is 1 exactly where the event was `RL_EMIT` (spec decisions D5, D15). -/
def Obligations.DataRegistersHaveTheirWriters : Prop :=
  ∀ (s t : State) (i : Instr), exec i s = .next t →
    (t.cur.reader.hi = s.cur.reader.hi ∨ (∃ n, i = .rhAccept n ∧ t.cur.reader.hi = n) ∨ (i = .reset ∧ t.cur.reader.hi = 0#4)) ∧
    (t.cur.reader.smpData = s.cur.reader.smpData ∨
      (∃ b, i = .rlEmit b ∧ t.cur.reader.smpData = assembleSample s.cur.reader.hi b) ∨
      (i = .reset ∧ t.cur.reader.smpData = 0#12)) ∧
    (i.hasWord = true → (t.cur.reader.smpValid = true ↔ ∃ b, i = .rlEmit b))

/-- Control transfer (R152): every target of `st` is the constant the rule lists, on a reader that is not fatal. -/
def Obligations.ControlTransfersGoWhereListed : Prop :=
  ∀ (s t : State) (i : Instr), exec i s = .next t → s.cur.reader.fatal = false →
    t.cur.reader.st =
      (match i with
        | .wsSync => .readHigh
        | .rhAccept _ => .readLow
        | .rhReject _ => .waitSync
        | .rlEmit _ => .waitSync
        | .flush => .waitSync
        | .cancel => .waitSync
        | .devlost => .waitSync
        | .reset => .waitSync
        | .wsSkip _ => s.cur.reader.st
        | .nobyte => s.cur.reader.st
        | .req => s.cur.reader.st
        | .code2v _ => s.cur.reader.st
        | .calStage1 _ _ => s.cur.reader.st
        | .calStage2 _ _ => s.cur.reader.st
        | .calEval _ _ => s.cur.reader.st
        | .samplePower _ _ => s.cur.reader.st)

/-- Loads and stores (R35, R72, R153): a byte event removes exactly the oldest byte, which is the one its word names;
`FLUSH` on a reader that is not fatal empties the queue; no other instruction touches it. -/
def Obligations.OnlyByteEventsAndFlushTouchTheQueue : Prop :=
  ∀ (s t : State) (i : Instr), exec i s = .next t →
    (isByteEvent i = true → ∃ b, s.cur.rxq = b :: t.cur.rxq ∧ classify s.cur.reader.st b = i) ∧
    (isByteEvent i = false →
      t.cur.rxq = if i = .flush ∧ s.cur.reader.fatal = false then [] else s.cur.rxq)

/-- No instruction touches anything but its own reader and the step's label (R33, R136, R24): the other reader whole, its
queue and its datapath, the table and the parameters stay as they are (two instances are spec decision D28). -/
def Obligations.InstructionsTouchOnlyTheirReader : Prop :=
  ∀ (s t : State) (i : Instr), exec i s = .next t → SameElsewhere s t

/-- The readers learn nothing of each other (R33; spec decision D28): whatever the other channel holds, an instruction
gives the same channel and the same label, or the same refusal. -/
def Obligations.ReadersAreIsolated : Prop :=
  ∀ (s : State) (i : Instr) (l : Lane),
    match exec i s with
    | .next t =>
      exec i (s.setLane (otherChan s.sel) l) = .next (t.setLane (otherChan s.sel) l)
    | .refused r => exec i (s.setLane (otherChan s.sel) l) = .refused r
    | .fault _ => False

/-- The datapath's results depend on the operands, the table and `ADC_DIV`, given that the datapath is present (`HAS_CAL`), and
on nothing else (R96, R32, R111): not on any register or queue, not on what is in flight, not on earlier operations, not on
`CAL_LATENCY` or another parameter. -/
def Obligations.DatapathReadsOnlyItsOperands : Prop :=
  ∀ (s s' t : State) (i : Instr), i.hasWord = false → s'.table = s.table → s'.params.hasCal = s.params.hasCal →
    s'.params.adcDiv = s.params.adcDiv → exec i s = .next t →
    ∃ t', exec i s' = .next t' ∧ t'.cur.calRes = t.cur.calRes ∧ t'.cur.reader = s'.cur.reader ∧ t'.label = t.label

/-- `hi` is read only by `RL_EMIT` (R15): outside `READ_LOW_BYTE` another value of `hi` changes nothing but `hi` itself, and
not even that once the reader is in `READ_LOW_BYTE` again (the specification marks the register's use as decision D15). -/
def Obligations.HiIsUnobservableOutsideReadLow : Prop :=
  ∀ (s t : State) (i : Instr) (h : Nibble), s.cur.reader.st ≠ .readLow → exec i s = .next t →
    ∃ h', exec i (s.setLane s.sel { s.cur with reader := { s.cur.reader with hi := h } }) =
        .next (t.setLane t.sel { t.cur with reader := { t.cur.reader with hi := h' } }) ∧
      (t.cur.reader.st = .readLow → h' = t.cur.reader.hi)

-- ==== The datapath ====

/-- `CODE2V` completes wherever a table has passed the load check, with `VREF * code / ADC_DIV` for either divisor, 4095 or 4096
(R103, R9, R140; the formula is spec decision D18), and touches nothing but the channel's output. -/
def Obligations.Code2vGivesTheVoltage : Prop :=
  ∀ (s : State) (T : CalTable) (code : Sample), usableTable s = .ok T →
    ∃ t v, exec (.code2v code) s = .next t ∧ t.label = some .nothing ∧ SameElsewhere s t ∧
      t.cur = { s.cur with calRes := some (.voltage v) } ∧
      (s.params.adcDiv = .d4095 → v = 33 / 10 * (code.toNat : CalNum) / 4095) ∧
      (s.params.adcDiv = .d4096 → v = 33 / 10 * (code.toNat : CalNum) / 4096)

/-- `CAL_STAGE1` completes for every key of a usable table and every voltage (R105, R107). -/
def Obligations.CalStage1EvaluatesOneCurve : Prop :=
  ∀ (s : State) (T : CalTable) (k : Nat) (v : CalNum), usableTable s = .ok T → k < T.length →
    ∃ t, exec (.calStage1 k v) s = .next t ∧ t.label = some .nothing ∧ SameElsewhere s t ∧
      t.cur = { s.cur with calRes := some (.estimate k (pwLin (tabVolts T k) (tabPowers T k) v)) }

/-- `CAL_STAGE2` completes for `NF` estimates and every frequency (R106, R107). -/
def Obligations.CalStage2InterpolatesAcrossFrequency : Prop :=
  ∀ (s : State) (T : CalTable) (E : List CalNum) (f : CalNum), usableTable s = .ok T → E.length = T.length →
    ∃ t, exec (.calStage2 E f) s = .next t ∧ t.label = some .nothing ∧ SameElsewhere s t ∧
      t.cur = { s.cur with calRes := some (.interpolated (pwLin (tabFreqs T) E f)) }

/-- `CAL_EVAL` completes for every voltage and frequency (R104, R107, R108): every key's curve at the voltage, those
estimates across frequency, and the offset of 33/10 once. -/
def Obligations.CalEvalRunsBothStages : Prop :=
  ∀ (s : State) (T : CalTable) (v f : CalNum), usableTable s = .ok T →
    ∃ t, exec (.calEval v f) s = .next t ∧ t.label = some .nothing ∧ SameElsewhere s t ∧
      t.cur = { s.cur with
        calRes := some (.power
          (pwLin (tabFreqs T) ((List.range T.length).map fun k => pwLin (tabVolts T k) (tabPowers T k) v) f + 33 / 10)) }

/-- `SAMPLE_POWER` completes for every code and frequency (R109, R107): the frequency passed through and the power of the
code's voltage (the voltage formula is spec decision D18, the frequency's origin D29). -/
def Obligations.SamplePowerGivesTheReading : Prop :=
  ∀ (s : State) (T : CalTable) (code : Sample) (f : CalNum), usableTable s = .ok T →
    ∃ t, exec (.samplePower code f) s = .next t ∧ t.label = some .nothing ∧ SameElsewhere s t ∧
      t.cur = { s.cur with
        calRes := some (.reading f (calPower T (codeToVoltage s.params.adcDiv code) f)) }

/-- Where a datapath operation has no meaning (R6, R98, R105, R106, R120, R140): no datapath, no table yet, an ill-formed
table, for every one of the five operations; a key the table does not have; a wrong number of estimates. The names of the
refusals are the model's. -/
def Obligations.DatapathNeedsAPresentCheckedTable : Prop :=
  (∀ (s : State) (i : Instr), i.hasWord = false → s.params.hasCal = false → exec i s = .refused .noCalDatapath) ∧
  (∀ (s : State) (i : Instr), i.hasWord = false → s.params.hasCal = true → s.table = none →
    exec i s = .refused .noCalTable) ∧
  (∀ (s : State) (i : Instr) (T : CalTable), i.hasWord = false → s.params.hasCal = true → s.table = some T →
    tableWf T = false → exec i s = .refused .configError) ∧
  (∀ (s : State) (T : CalTable) (k : Nat) (v : CalNum), usableTable s = .ok T → T.length ≤ k →
    exec (.calStage1 k v) s = .refused .noSuchKey) ∧
  (∀ (s : State) (T : CalTable) (E : List CalNum) (f : CalNum), usableTable s = .ok T → E.length ≠ T.length →
    exec (.calStage2 E f) s = .refused .wrongEstimateCount)

/-- The table load (R98, R99, R120, R140; strictness is spec decision D25, the sorting D24): the check admits exactly the
tables of the five conditions; a table that passes it is stored in ascending frequency with the same keys and is well formed; one that fails is refused with label code 6; a
second load is refused. -/
def Obligations.TableLoadIsCheckedAndSorted : Prop :=
  (∀ (T : CalTable), loadCheck T = true ↔
    2 ≤ T.length ∧ (∀ key ∈ T, 2 ≤ key.points.length) ∧ (T.map CalKey.freq).Nodup ∧
      (∀ key ∈ T, (key.points.map CalPoint.volt).Pairwise (· < ·))) ∧
  (∀ (T : CalTable), loadCheck T = true → tableWf (sortKeys T) = true ∧ (sortKeys T).Perm T) ∧
  (∀ (s : State) (T : CalTable) (xs : List Input), s.pending = [] → s.inputs = .loadTable T :: xs →
    s.params.hasCal = true → s.table = none → loadCheck T = true →
    step s = .next { s with table := some (sortKeys T), inputs := xs, label := none }) ∧
  (∀ (s : State) (T : CalTable) (xs : List Input), s.pending = [] → s.inputs = .loadTable T :: xs →
    s.params.hasCal = true → s.table = none → loadCheck T = false →
    step s = .refused .configError ∧ (outcomeLabel (step s)).map Label.code = some 6) ∧
  (∀ (s : State) (T T' : CalTable) (xs : List Input), s.pending = [] → s.inputs = .loadTable T :: xs →
    s.params.hasCal = true → s.table = some T' → step s = .refused .tableAlreadyLoaded)

/-- `Lerp` (R101, over the rationals: log entry 1): the line through two points, exact at both, and linear everywhere: equal steps of `x` give equal steps of
the value, inside the interval and outside it. -/
def Obligations.LerpIsTheLineThroughTwoPoints : Prop :=
  ∀ (x0 y0 x1 y1 : CalNum), x0 ≠ x1 →
    (∀ x, lerp x0 y0 x1 y1 x = y0 + (y1 - y0) * (x - x0) / (x1 - x0)) ∧
    lerp x0 y0 x1 y1 x0 = y0 ∧ lerp x0 y0 x1 y1 x1 = y1 ∧
    ∀ x d, lerp x0 y0 x1 y1 (x + d) - lerp x0 y0 x1 y1 x = (y1 - y0) / (x1 - x0) * d

/-- `PwLin` (R102; the interpolant is spec decision D19): at every point its own ordinate; between two neighbours their
line; below the first abscissa the first segment extended; at and above the last the last segment extended. -/
def Obligations.PwLinPassesThroughItsPoints : Prop :=
  ∀ (xs ys : List CalNum), ascending xs = true → 2 ≤ xs.length → ys.length = xs.length →
    (∀ i, i < xs.length → pwLin xs ys (xs.getD i 0) = ys.getD i 0) ∧
    (∀ j x, j + 1 < xs.length → xs.getD j 0 ≤ x → x < xs.getD (j + 1) 0 →
      pwLin xs ys x = lerp (xs.getD j 0) (ys.getD j 0) (xs.getD (j + 1) 0) (ys.getD (j + 1) 0) x) ∧
    (∀ x, x < xs.getD 0 0 → pwLin xs ys x = lerp (xs.getD 0 0) (ys.getD 0 0) (xs.getD 1 0) (ys.getD 1 0) x) ∧
    (∀ x, xs.getD (xs.length - 1) 0 ≤ x →
      pwLin xs ys x = lerp (xs.getD (xs.length - 2) 0) (ys.getD (xs.length - 2) 0)
        (xs.getD (xs.length - 1) 0) (ys.getD (xs.length - 1) 0) x)

/-- `CODE2V` (R103): 0 gives 0, 4095 gives exactly `VREF` under the default divisor, the other divisor is 4096, the result lies in `0 .. VREF`, and the
map is strictly increasing (the formula is spec decision D18). -/
def Obligations.Code2vIsStrictlyIncreasing : Prop :=
  codeToVoltage .d4095 0x000#12 = 0 ∧ codeToVoltage .d4095 0xFFF#12 = 33 / 10 ∧
  (∀ code : Sample, codeToVoltage .d4095 code = 33 / 10 * (code.toNat : CalNum) / 4095 ∧
    codeToVoltage .d4096 code = 33 / 10 * (code.toNat : CalNum) / 4096) ∧
  (∀ d code, 0 ≤ codeToVoltage d code ∧ codeToVoltage d code ≤ 33 / 10) ∧
  (∀ d (c1 c2 : Sample), c1.toNat < c2.toNat → codeToVoltage d c1 < codeToVoltage d c2)

/-- At a key frequency the power is that key's estimate plus the offset, and at a table voltage the estimate is that
point's power (R104). -/
def Obligations.CalEvalIsExactAtTheTable : Prop :=
  ∀ (T : CalTable), tableWf T = true →
    (∀ k v, k < T.length → calPower T v ((tabFreqs T).getD k 0) = stage1 T k v + 33 / 10) ∧
    (∀ k i, k < T.length → i < (tabPoints T k).length → stage1 T k ((tabVolts T k).getD i 0) = (tabPowers T k).getD i 0)

/-- Monotonicity as corrected (R112, which the specification derives; 90_conflicts.md C2): with non-decreasing powers in
every key and the frequency inside the key range, `CAL_EVAL` does not decrease with the voltage, nor `SAMPLE_POWER` with the
code, over the rationals. -/
def Obligations.PowerDoesNotDecreaseWithVoltage : Prop :=
  ∀ (T : CalTable) (f : CalNum), tableWf T = true → (∀ k, k < T.length → nonDecreasing (tabPowers T k) = true) →
    (tabFreqs T).getD 0 0 ≤ f → f ≤ (tabFreqs T).getD (T.length - 1) 0 →
    (∀ v1 v2, v1 ≤ v2 → calPower T v1 f ≤ calPower T v2 f) ∧
    (∀ d (c1 c2 : Sample), c1.toNat ≤ c2.toNat →
      calPower T (codeToVoltage d c1) f ≤ calPower T (codeToVoltage d c2) f)

/-- The pipeline (R111; spec decision D21): from nothing in flight, what leaves at an edge is what entered exactly
`CAL_LATENCY` edges before, in order, none lost. -/
def Obligations.PipelineDelaysByTheLatency : Prop :=
  ∀ (latency : Nat) (xs : List (Option (Sample × CalNum))) (n : Nat), n < xs.length →
    (pipeOutputs latency [] xs)[n]? =
      some (if n < latency then [] else (xs.getD (n - latency) none).toList)

-- ==== The machine's steps ====

/-- A step runs the decoded instruction, whether a clock edge or the environment put it before a channel: an event is put
into its word with the channel's `st`, decoded, and executed on that channel; an event word likewise, or refused where it
decodes to nothing; a datapath operation is executed as it stands (R61, R67, R70, R80, R89). The selecting of the channel
and the two lists are the model's own (log entry 4). -/
def Obligations.StepRunsTheDecodedInstruction : Prop :=
  ∀ (s s' : State) (k : Task) (ts : List Task) (xs : List Input),
    ((s.pending = k :: ts ∧ s' = { s with pending := ts }) ∨
      (s.pending = [] ∧ s.inputs = .present k :: xs ∧ s' = { s with inputs := xs })) →
    (∀ c e i, k = .event c e → decode (eventWord (s.lane c).reader.st e) = .ok i → step s = exec i { s' with sel := c }) ∧
    (∀ c w i, k = .word c w → decode w = .ok i → step s = exec i { s' with sel := c }) ∧
    (∀ c w r, k = .word c w → decode w = .error r → step s = .refused (.undecodable r)) ∧
    (∀ c op, k = .datapath c op → step s = exec (decodeDatapath op) { s' with sel := c })

/-- An arrival (R34, R36; unbounded or refused is spec decision D16): the byte goes to the young end of its channel's queue
and nothing else of either channel changes; at a full queue of bounded depth it has no meaning. -/
def Obligations.ArrivalsQueueInOrder : Prop :=
  ∀ (s : State) (c : Chan) (b : Byte) (xs : List Input), s.pending = [] → s.inputs = .arrive c b :: xs →
    (∀ d, s.params.rxqDepth = some d → d ≤ (s.lane c).rxq.length → step s = .refused .queueFull) ∧
    ((∀ d, s.params.rxqDepth = some d → (s.lane c).rxq.length < d) →
      ∃ t, step s = .next t ∧ t.lane c = { s.lane c with rxq := (s.lane c).rxq ++ [b] } ∧
        t.lane (otherChan c) = s.lane (otherChan c) ∧ t.table = s.table ∧ t.params = s.params ∧ t.inputs = xs ∧
        t.pending = [])

/-- Priority of the pins (R80, R82, R122; spec decision D10): `rst` over everything; a standing `fatal` over the rest; `rx_lost`
over `cancel`, `flush`, `req` and a byte; `cancel` over `req`; `cancel` and `flush` over a byte; then `req` before the byte or
`NOBYTE` of a request outstanding before the edge; at most three events. -/
def Obligations.PinsResolveInPriorityOrder : Prop :=
  ∀ (r : Reader) (p : ReaderPins) (cancel : Bool) (offered : Option Byte),
    (p.rst = true → resolve r p cancel offered = [.reset]) ∧
    (p.rst = false → r.fatal = true → resolve r p cancel offered = []) ∧
    (p.rst = false → r.fatal = false → p.rxLost = true → resolve r p cancel offered = [.devlost]) ∧
    (p.rst = false → r.fatal = false → p.rxLost = false →
      (cancel = true → resolve r p cancel offered = if p.flush = true then [.cancel, .flush] else [.cancel]) ∧
      (cancel = false → p.flush = true → resolve r p cancel offered = if p.req = true then [.flush, .req] else [.flush]) ∧
      (cancel = false → p.flush = false →
        (r.armed = false → resolve r p cancel offered = if p.req = true then [.req] else []) ∧
        (r.armed = true → ∀ b, offered = some b →
          resolve r p cancel offered = if p.req = true then [.req, .byte b] else [.byte b]) ∧
        (r.armed = true → offered = none →
          resolve r p cancel offered = if p.req = true then [.req, .nobyte] else [.nobyte]))) ∧
    (resolve r p cancel offered).length ≤ 3

/-- The handshake (R23, R35, R80; spec decisions D2, D10): a byte event is resolved exactly where `rx_valid` and `rx_ready`
hold, and takes the byte offered; `NOBYTE` exactly where `rx_ready` holds alone; `FLUSH` exactly where `rx_flush` does. -/
def Obligations.ByteTakenExactlyOnHandshake : Prop :=
  ∀ (r : Reader) (p : ReaderPins) (cancel : Bool) (offered : Option Byte),
    (∀ b, Event.byte b ∈ resolve r p cancel offered ↔ r.rxReady p cancel = true ∧ offered = some b) ∧
    (Event.nobyte ∈ resolve r p cancel offered ↔ r.rxReady p cancel = true ∧ offered = none) ∧
    (Event.flush ∈ resolve r p cancel offered ↔ r.rxFlush p = true)

/-- A clock edge (R80, R88, R111), with the pins the environment gives or, where it gives nothing more, with all low: it
queues, as one list, for each channel the events it resolves to, in the order of R80 and once each, and then the datapath
operations that leave now, unless `rst` is high; it drops `cal_out_valid`, moves the pipelines on by one edge, and clears
`smp_valid` of a reader that executes no event; no other register and no queue changes. That channel A's part stands first,
and the low pins, are the model's (log entries 6 and 4), the reset of a pipeline by `rst` is log entry 5. -/
def Obligations.ClockEdgeQueuesBothChannels : Prop :=
  ∀ (s : State) (p : Pins) (xs : List Input), s.pending = [] →
    (s.inputs = .cycle p :: xs ∨ (s.inputs = [] ∧ p = Pins.low ∧ xs = [])) →
    (calDriven p s = true → ∃ T, usableTable s = .ok T) →
    let events : Chan → List Event := fun c => resolve (s.lane c).reader (p.chan c) p.cancel (s.lane c).rxq.head?
    let flight : Chan → List InFlight := fun c =>
      (s.lane c).flight ++ entering s.params.calLatency (calOperands (s.lane c) (p.chan c).cal)
    let tasks : Chan → List Task := fun c =>
      (events c).map (fun e => Task.event c e) ++
        if (p.chan c).rst = true then []
        else (leaving (flight c)).map (fun x => Task.datapath c (.samplePower x.code x.freq))
    ∃ t, step s = .next t ∧ t.inputs = xs ∧ t.table = s.table ∧ t.params = s.params ∧
      t.pending = tasks .a ++ tasks .b ∧
      (∀ c, (t.lane c).rxq = (s.lane c).rxq ∧ (t.lane c).calRes = none ∧
        ((p.chan c).rst = false → (t.lane c).flight = staying (flight c)) ∧
        (t.lane c).reader =
          if (events c).isEmpty = true then { (s.lane c).reader with smpValid := false } else (s.lane c).reader)

/-- Every clock cycle runs to its end (R80, R89): whatever the pins, from every state where the calibration inputs are
used only with a checked table, the edge and all it resolves to take a next state each; a channel's queue is then empty
where `rx_flush` was high, shorter by its oldest byte where the handshake held, and unchanged otherwise; a reader under
`rst` holds its reset values (spec decisions D2, D10, D11). -/
def Obligations.EveryClockCycleCompletes : Prop :=
  ∀ (s : State) (p : Pins) (xs : List Input), s.pending = [] → s.inputs = .cycle p :: xs →
    ((calDriven p s = true ∨ s.laneA.flight ≠ [] ∨ s.laneB.flight ≠ []) → ∃ T, usableTable s = .ok T) →
    ∃ t, core.run (1 + (edgeState p s).pending.length) s = .next t ∧ t.pending = [] ∧ t.inputs = xs ∧
      t.table = s.table ∧ t.params = s.params ∧
      ∀ c, ((t.lane c).rxq =
          if (s.lane c).reader.rxFlush (p.chan c) = true then []
          else if (s.lane c).reader.rxReady (p.chan c) p.cancel = true then (s.lane c).rxq.tail
          else (s.lane c).rxq) ∧
        ((p.chan c).rst = true → (t.lane c).reader = Reader.reset)

/-- A cancellation in the cycle in which the low byte is offered wins (R84, R80; spec decisions D8, D10): after that cycle
the request is over, no sample is on the output, and the byte is still queued. -/
def Obligations.CancelBeatsALowByteOffered : Prop :=
  ∀ (s : State) (xs : List Input) (b : Byte) (rest : List Byte), s.pending = [] →
    s.inputs = .cycle { a := .low, b := .low, cancel := true } :: xs →
    s.laneA.reader.armed = true → s.laneA.reader.fatal = false → s.laneA.reader.st = .readLow →
    s.laneA.rxq = b :: rest → s.laneA.flight = [] →
    s.laneB.reader.fatal = false → s.laneB.flight = [] →
    ∃ t, core.run 3 s = .next t ∧ t.pending = [] ∧ t.inputs = xs ∧ t.laneA.rxq = b :: rest ∧
      t.laneA.reader = { s.laneA.reader with armed := false, st := .waitSync, smpValid := false } ∧
      t.laneA.reader.sample = none

/-- One sample gives one reading (R109, R110, R111; spec decision D21), on either channel: with the intended wiring, both
readers idle and nothing in flight, a sample on a channel's output enters the datapath at the next edge and its reading is on
that channel's output after `CAL_LATENCY` further edges. That the edge that samples `cal_in_valid` is the one the latency is
counted from is the model's reading (log entry 20). -/
def Obligations.SampleReachesThePowerOutput : Prop :=
  ∀ (s : State) (c : Chan) (p : Pins) (T : CalTable) (f : CalNum) (xs : List Input),
    p.chan c = { ReaderPins.low with cal := .wired f } → p.chan (otherChan c) = ReaderPins.low → p.cancel = false →
    s.pending = [] → s.inputs = .cycle p :: (List.replicate s.params.calLatency (.cycle Pins.low) ++ xs) →
    usableTable s = .ok T → (∀ x, (s.lane x).flight = [] ∧ (s.lane x).reader.armed = false) →
    (s.lane c).reader.smpValid = true →
    ∃ t, core.run (s.params.calLatency + 2) s = .next t ∧ t.inputs = xs ∧ t.pending = [] ∧
      (t.lane c).calOut = some (f, calPower T (codeToVoltage s.params.adcDiv (s.lane c).reader.smpData) f) ∧
      (t.lane (otherChan c)).calOut = none

-- ==== Invariants ====

/-- The machine after reset meets the invariants of R28, holds the values of R30 in both readers, and no reader is fatal
(spec decision D11; the empty queues, the absent table and the parameters are the model's, log entries 2 and 3). -/
def Obligations.ResetStateMeetsTheInvariants : Prop :=
  State.reset.Inv ∧ State.reset.Safe ∧ State.reset.params.wf = true ∧
  (∀ c, (State.reset.lane c).reader =
    { st := .waitSync, hi := 0x0#4, armed := false, fatal := false, smpData := 0x000#12, smpValid := false }) ∧
  (∀ c, (State.reset.lane c).rxq = []) ∧ State.reset.table = none ∧ State.reset.pending = [] ∧ State.reset.inputs = []

/-- Every step keeps the invariants: those of R28 in both readers (derived by the specification), the bound of the queues
(R34), the order of what is in flight (R111), and the check of the table (R98, R99). -/
def Obligations.EveryStepKeepsTheInvariants : Prop :=
  ∀ (s t : State), s.Inv → step s = .next t → t.Inv

/-- A fatal reader stays fatal until it is reset (R19, R90; spec decision D7): a step that clears a channel's `fatal` runs
`RESET` on that channel, and no step changes a loaded table or a parameter (R24, R27). -/
def Obligations.OnlyAResetStepLeavesFatal : Prop :=
  ∀ (s t : State) (c : Chan), step s = .next t →
    ((s.lane c).reader.fatal = true → (t.lane c).reader.fatal = false →
      ∃ s', s'.sel = c ∧ (s'.lane c) = (s.lane c) ∧ exec .reset s' = .next t) ∧
    t.params = s.params ∧ (∀ T, s.table = some T → t.table = some T)

/-- The five shapes (R29, derived by the specification): a reader that meets R28 has exactly one of them. -/
def Obligations.ReaderHasExactlyOneShape : Prop :=
  ∀ r : Reader, r.Inv → ∃ x : Shape, x.Describes r ∧ ∀ y : Shape, y.Describes r → y = x

-- ==== A request over a supply of bytes ====

/-- The machine computes `Scan` (R92, derived by the specification from R79, R81 and R91): presenting the byte events of the
bytes a request consumes, one step each, emits the sample `Scan` returns and leaves the tail it returns; where `Scan` is
pending, all bytes are consumed and the request is outstanding in the state it names. -/
def Obligations.RunOfByteEventsComputesScan : Prop :=
  ∀ (s : State) (c : Chan) (q : ScanState) (bytes : List Byte) (xs : List Input), s.pending = [] →
    (s.lane c).reader.armed = true → (s.lane c).reader.fatal = false → q.At (s.lane c).reader →
    (s.lane c).rxq = bytes →
    (∀ smp tail, scan q bytes = .done smp tail →
      s.inputs = (bytes.take (bytes.length - tail.length)).map (fun b => .present (.event c (.byte b))) ++ xs →
      ∃ t, core.run (bytes.length - tail.length) s = .next t ∧ t.inputs = xs ∧ t.pending = [] ∧
        (t.lane c).rxq = tail ∧ (t.lane c).reader.sample = some smp ∧ (t.lane c).reader.armed = false ∧
        (t.lane c).reader.st = .waitSync ∧ t.label = some .emit ∧ t.lane (otherChan c) = s.lane (otherChan c)) ∧
    (∀ q', scan q bytes = .pending q' →
      s.inputs = bytes.map (fun b => .present (.event c (.byte b))) ++ xs →
      ∃ t, core.run bytes.length s = .next t ∧ t.inputs = xs ∧ t.pending = [] ∧ (t.lane c).rxq = [] ∧
        q'.At (t.lane c).reader ∧ (t.lane c).reader.armed = true ∧ t.lane (otherChan c) = s.lane (otherChan c))

/-- There is no time-out (R81, R116, R144): any number of `NOBYTE` steps in a row leaves the request outstanding and the
partial frame as it was. -/
def Obligations.NobyteNeverEndsARequest : Prop :=
  ∀ (n : Nat) (s : State) (c : Chan) (xs : List Input), s.pending = [] →
    s.inputs = List.replicate n (.present (.event c .nobyte)) ++ xs →
    (s.lane c).reader.armed = true → (s.lane c).reader.fatal = false → (s.lane c).rxq = [] →
    ∃ t, core.run n s = .next t ∧ t.inputs = xs ∧ t.pending = [] ∧ (t.lane c).rxq = [] ∧
      (t.lane c).reader.st = (s.lane c).reader.st ∧ (t.lane c).reader.hi = (s.lane c).reader.hi ∧
      (t.lane c).reader.armed = true ∧ (t.lane c).reader.fatal = false ∧
      (t.lane c).reader.smpData = (s.lane c).reader.smpData

/-- The source's first property (R94): leading garbage without `0xFF` is skipped, the frame returns its value, and the next
request sees exactly the tail, from which it returns a further frame in the same way; with a `0xFF` in the garbage the frame
may be lost (the last clause is vector V7). -/
def Obligations.LeadingGarbageIsSkipped : Prop :=
  (∀ (g : List Byte) (X : Nibble) (YY : Byte) (t : List Byte), (∀ b ∈ g, b ≠ 0xFF#8) →
    nextSample (g ++ [0xFF#8, 0b0000#4 ++ X, YY] ++ t) = .done ((X.setWidth 12 <<< 8) ||| YY.setWidth 12) t ∧
    ∀ (g' : List Byte) (s' : Sample) (t' : List Byte), (∀ b ∈ g', b ≠ 0xFF#8) → t = g' ++ frame s' ++ t' →
      nextSample t = .done s' t') ∧
  nextSample [0xFF#8, 0x05#8, 0xFF#8, 0x0A#8, 0xBC#8, 0xFF#8, 0x01#8, 0x02#8] =
    .done 0x5FF#12 [0x0A#8, 0xBC#8, 0xFF#8, 0x01#8, 0x02#8]

/-- The source's second property (R95): an invalid high byte is dropped, not read again; the source's example then decodes
the next frame; and with a stray `0xFF` before it that frame is lost (90_conflicts.md C6, vector V20). -/
def Obligations.InvalidHighByteIsDropped : Prop :=
  (∀ (b : Byte) (t : List Byte), b &&& 0xF0#8 ≠ 0x00#8 → scan .waitSync (0xFF#8 :: b :: t) = scan .waitSync t) ∧
  (∀ (s : Sample) (t : List Byte), nextSample ([0xFF#8, 0x10#8, 0x00#8] ++ frame s ++ t) = .done s t) ∧
  nextSample [0xFF#8, 0x10#8, 0xFF#8, 0xFF#8, 0x0A#8, 0xBC#8, 0xFF#8, 0x01#8, 0x02#8] = .done 0x102#12 []

/-- The hazard of R141 (derived by the specification): a request that starts on a low byte `0xFF`, with every later frame's
low byte `0xFF` too, never locks, however long the stream. -/
def Obligations.MisalignedRequestNeverLocks : Prop :=
  ∀ (hs : List Nibble),
    scan .waitSync (0xFF#8 :: hs.flatMap (fun h => [0xFF#8, 0b0000#4 ++ h, 0xFF#8])) = .pending .readHigh
end

