-- ==== Sys2Proof/Laws/State.lean ====
section
/-! SUPPORT. The small lemmas of the state's updates: one per field per update, true by rfl, so that no later proof unfolds
a record update. -/
namespace Sys2Proof.Machine

@[simp] theorem Reader.tick_st (r : Reader) : r.tick.st = r.st := rfl
@[simp] theorem Reader.tick_hi (r : Reader) : r.tick.hi = r.hi := rfl
@[simp] theorem Reader.tick_armed (r : Reader) : r.tick.armed = r.armed := rfl
@[simp] theorem Reader.tick_fatal (r : Reader) : r.tick.fatal = r.fatal := rfl
@[simp] theorem Reader.tick_smpData (r : Reader) : r.tick.smpData = r.smpData := rfl
@[simp] theorem Reader.tick_smpValid (r : Reader) : r.tick.smpValid = false := rfl

@[simp] theorem Reader.emit_st (r : Reader) (x : Sample) : (r.emit x).st = r.st := rfl
@[simp] theorem Reader.emit_hi (r : Reader) (x : Sample) : (r.emit x).hi = r.hi := rfl
@[simp] theorem Reader.emit_armed (r : Reader) (x : Sample) : (r.emit x).armed = r.armed := rfl
@[simp] theorem Reader.emit_fatal (r : Reader) (x : Sample) : (r.emit x).fatal = r.fatal := rfl
@[simp] theorem Reader.emit_smpData (r : Reader) (x : Sample) : (r.emit x).smpData = x := rfl
@[simp] theorem Reader.emit_smpValid (r : Reader) (x : Sample) : (r.emit x).smpValid = true := rfl

@[simp] theorem Lane.tick_reader (l : Lane) : l.tick.reader = l.reader.tick := rfl
@[simp] theorem Lane.tick_rxq (l : Lane) : l.tick.rxq = l.rxq := rfl
@[simp] theorem Lane.tick_flight (l : Lane) : l.tick.flight = l.flight := rfl
@[simp] theorem Lane.tick_calRes (l : Lane) : l.tick.calRes = l.calRes := rfl

@[simp] theorem Lane.rxFlush_reader (l : Lane) : l.rxFlush.reader = l.reader := rfl
@[simp] theorem Lane.rxFlush_rxq (l : Lane) : l.rxFlush.rxq = [] := rfl
@[simp] theorem Lane.rxFlush_flight (l : Lane) : l.rxFlush.flight = l.flight := rfl
@[simp] theorem Lane.rxFlush_calRes (l : Lane) : l.rxFlush.calRes = l.calRes := rfl

@[simp] theorem State.select_laneA (s : State) (c : Chan) : (s.select c).laneA = s.laneA := rfl
@[simp] theorem State.select_laneB (s : State) (c : Chan) : (s.select c).laneB = s.laneB := rfl
@[simp] theorem State.select_table (s : State) (c : Chan) : (s.select c).table = s.table := rfl
@[simp] theorem State.select_sel (s : State) (c : Chan) : (s.select c).sel = c := rfl
@[simp] theorem State.select_label (s : State) (c : Chan) : (s.select c).label = s.label := rfl
@[simp] theorem State.select_pending (s : State) (c : Chan) : (s.select c).pending = s.pending := rfl
@[simp] theorem State.select_inputs (s : State) (c : Chan) : (s.select c).inputs = s.inputs := rfl
@[simp] theorem State.select_params (s : State) (c : Chan) : (s.select c).params = s.params := rfl

@[simp] theorem State.raise_laneA (s : State) (x : Label) : (s.raise x).laneA = s.laneA := rfl
@[simp] theorem State.raise_laneB (s : State) (x : Label) : (s.raise x).laneB = s.laneB := rfl
@[simp] theorem State.raise_table (s : State) (x : Label) : (s.raise x).table = s.table := rfl
@[simp] theorem State.raise_sel (s : State) (x : Label) : (s.raise x).sel = s.sel := rfl
@[simp] theorem State.raise_label (s : State) (x : Label) : (s.raise x).label = some x := rfl
@[simp] theorem State.raise_pending (s : State) (x : Label) : (s.raise x).pending = s.pending := rfl
@[simp] theorem State.raise_inputs (s : State) (x : Label) : (s.raise x).inputs = s.inputs := rfl
@[simp] theorem State.raise_params (s : State) (x : Label) : (s.raise x).params = s.params := rfl

@[simp] theorem State.setLane_table (s : State) (c : Chan) (l : Lane) : (s.setLane c l).table = s.table := by cases c <;> rfl
@[simp] theorem State.setLane_sel (s : State) (c : Chan) (l : Lane) : (s.setLane c l).sel = s.sel := by cases c <;> rfl
@[simp] theorem State.setLane_label (s : State) (c : Chan) (l : Lane) : (s.setLane c l).label = s.label := by cases c <;> rfl
@[simp] theorem State.setLane_pending (s : State) (c : Chan) (l : Lane) : (s.setLane c l).pending = s.pending := by cases c <;> rfl
@[simp] theorem State.setLane_inputs (s : State) (c : Chan) (l : Lane) : (s.setLane c l).inputs = s.inputs := by cases c <;> rfl
@[simp] theorem State.setLane_params (s : State) (c : Chan) (l : Lane) : (s.setLane c l).params = s.params := by cases c <;> rfl

@[simp] theorem State.finish_table (s : State) (l : Lane) (x : Label) : (s.finish l x).table = s.table := by
  simp [State.finish]
@[simp] theorem State.finish_sel (s : State) (l : Lane) (x : Label) : (s.finish l x).sel = s.sel := by
  simp [State.finish]
@[simp] theorem State.finish_label (s : State) (l : Lane) (x : Label) : (s.finish l x).label = some x := by
  simp [State.finish]
@[simp] theorem State.finish_pending (s : State) (l : Lane) (x : Label) : (s.finish l x).pending = s.pending := by
  simp [State.finish]
@[simp] theorem State.finish_inputs (s : State) (l : Lane) (x : Label) : (s.finish l x).inputs = s.inputs := by
  simp [State.finish]
@[simp] theorem State.finish_params (s : State) (l : Lane) (x : Label) : (s.finish l x).params = s.params := by
  simp [State.finish]

@[simp] theorem State.lane_a (s : State) : s.lane .a = s.laneA := rfl
@[simp] theorem State.lane_b (s : State) : s.lane .b = s.laneB := rfl
@[simp] theorem otherChan_a : otherChan .a = .b := rfl
@[simp] theorem otherChan_b : otherChan .b = .a := rfl
@[simp] theorem otherChan_ne (c : Chan) : otherChan c ≠ c := by cases c <;> decide
@[simp] theorem otherChan_ne' (c : Chan) : c ≠ otherChan c := by cases c <;> decide

@[simp] theorem State.setLane_lane_same (s : State) (c : Chan) (l : Lane) : (s.setLane c l).lane c = l := by
  cases c <;> rfl

theorem State.setLane_lane_ne (s : State) (c d : Chan) (l : Lane) (h : d ≠ c) : (s.setLane c l).lane d = s.lane d := by
  cases c <;> cases d <;> first | rfl | exact absurd rfl h

@[simp] theorem State.setLane_lane_other (s : State) (c : Chan) (l : Lane) :
    (s.setLane c l).lane (otherChan c) = s.lane (otherChan c) := by
  cases c <;> rfl

@[simp] theorem State.raise_lane (s : State) (x : Label) (c : Chan) : (s.raise x).lane c = s.lane c := by
  cases c <;> rfl

@[simp] theorem State.select_lane (s : State) (c d : Chan) : (s.select c).lane d = s.lane d := by
  cases d <;> rfl

@[simp] theorem State.select_cur (s : State) (c : Chan) : (s.select c).cur = s.lane c := by
  cases c <;> rfl

@[simp] theorem State.finish_cur (s : State) (l : Lane) (x : Label) : (s.finish l x).cur = l := by
  simp [State.finish, State.cur]

@[simp] theorem State.finish_lane_sel (s : State) (l : Lane) (x : Label) : (s.finish l x).lane s.sel = l := by
  simp [State.finish]

@[simp] theorem State.finish_lane_other (s : State) (l : Lane) (x : Label) :
    (s.finish l x).lane (otherChan s.sel) = s.lane (otherChan s.sel) := by
  simp [State.finish]

end Sys2Proof.Machine
end

