-- ==== Sys2Proof/Laws/Ops.lean ====
section
/-! SUPPORT. What each shared operation can do, said once: the lemmas the proofs cite in place of unfolding it. -/
namespace Sys2Proof.Machine

theorem Lane.rxPop_nil {l : Lane} (h : l.rxq = []) : l.rxPop = none := by simp [Lane.rxPop, h]

theorem Lane.rxPop_cons {l : Lane} {b : Byte} {t : List Byte} (h : l.rxq = b :: t) :
    l.rxPop = some (b, { l with rxq := t }) := by simp [Lane.rxPop, h]

/-- A byte event answers a next state exactly where R71 and R73 enable it, and then pops one byte. -/
theorem byteStep_next {i : Instr} {lbl : Label} {act : Byte → Reader → Reader} {s t : State} :
    byteStep i lbl act s = .next t ↔
      s.cur.reader.fatal = false ∧ s.cur.reader.armed = true ∧
        ∃ b rest, s.cur.rxq = b :: rest ∧ classify s.cur.reader.st b = i ∧
          t = s.finish { s.cur with reader := act b s.cur.reader.tick, rxq := rest } lbl := by
  unfold byteStep
  cases hf : s.cur.reader.fatal <;> cases ha : s.cur.reader.armed <;> simp
  cases hq : s.cur.rxq with
  | nil => simp [Lane.rxPop, hq]
  | cons b rest =>
    rw [Lane.rxPop_cons hq]
    by_cases hc : classify s.cur.reader.st b = i
    · simp [hc, eq_comm]
    · simp [hc]

/-- No byte event faults. -/
theorem byteStep_no_fault {i : Instr} {lbl : Label} {act : Byte → Reader → Reader} {s : State} {r : Fault} :
    byteStep i lbl act s ≠ .fault r := nomatch r

/-- A control event always answers a next state: ignored on a fatal reader, its effect otherwise (R87). -/
theorem controlStep_eq (lbl : Label) (act : Lane → Lane) (s : State) :
    controlStep lbl act s =
      .next (if s.cur.reader.fatal then s.finish s.cur.tick .nothing else s.finish (act s.cur.tick) lbl) := by
  unfold controlStep
  split <;> rfl

theorem controlStep_next {lbl : Label} {act : Lane → Lane} {s t : State} :
    controlStep lbl act s = .next t ↔
      t = if s.cur.reader.fatal then s.finish s.cur.tick .nothing else s.finish (act s.cur.tick) lbl := by
  rw [controlStep_eq]
  exact ⟨fun h => by cases h; rfl, fun h => by rw [h]⟩

/-- `NOBYTE` answers a next state exactly under its precondition (R81). -/
theorem execNobyte_next {s t : State} :
    execNobyte s = .next t ↔
      s.cur.reader.fatal = false ∧ s.cur.reader.armed = true ∧ s.cur.rxq = [] ∧
        t = s.finish s.cur.tick .transientIo := by
  unfold execNobyte Lane.rxValid
  cases hf : s.cur.reader.fatal <;> cases ha : s.cur.reader.armed <;> cases hq : s.cur.rxq <;> simp [eq_comm]

theorem datapathStep_next {r : CalResult} {s t : State} :
    datapathStep r s = .next t ↔ t = s.finish { s.cur with calRes := some r } .nothing := by
  simp [datapathStep, eq_comm]

/-- The table an operation may use, exactly: present, loaded and well formed (R8, R98, R140). -/
theorem usableTable_ok {s : State} {T : CalTable} :
    usableTable s = .ok T ↔ s.params.hasCal = true ∧ s.table = some T ∧ tableWf T = true := by
  unfold usableTable
  cases s.params.hasCal <;> simp
  cases s.table with
  | none => simp
  | some t =>
    by_cases h : tableWf t = true
    · simp only [h, if_true]
      constructor
      · intro e; cases e; exact ⟨rfl, h⟩
      · rintro ⟨e, -⟩; cases e; rfl
    · simp only [h]
      constructor
      · intro e; cases e
      · rintro ⟨e, h'⟩; cases e; exact absurd h' h

theorem withTable_next {s t : State} {k : CalTable → Result} :
    withTable s k = .next t ↔ ∃ T, usableTable s = .ok T ∧ k T = .next t := by
  unfold withTable
  cases h : usableTable s <;> simp

theorem withTable_ok {s : State} {k : CalTable → Result} {T : CalTable} (h : usableTable s = .ok T) :
    withTable s k = k T := by simp [withTable, h]

/-- Every instruction ends by `finish`: it replaces the addressed channel and records a label, and leaves the rest. -/
theorem exec_finish {i : Instr} {s t : State} (h : exec i s = .next t) : ∃ l lbl, t = s.finish l lbl := by
  cases i
  case wsSync | wsSkip | rhAccept | rhReject | rlEmit =>
    simp only [exec, execWsSync, execWsSkip, execRhAccept, execRhReject, execRlEmit, byteStep_next] at h
    obtain ⟨-, -, b, rest, -, -, rfl⟩ := h
    exact ⟨_, _, rfl⟩
  case nobyte =>
    simp only [exec, execNobyte_next] at h
    exact ⟨_, _, h.2.2.2⟩
  case req | flush | cancel | devlost =>
    simp only [exec, execReq, execFlush, execCancel, execDevlost, controlStep_next] at h
    rw [h]
    split <;> exact ⟨_, _, rfl⟩
  case reset => cases h; exact ⟨_, _, rfl⟩
  case code2v | calEval | samplePower =>
    simp only [exec, execCode2v, execCalEval, execSamplePower, withTable_next, datapathStep_next] at h
    obtain ⟨T, -, h⟩ := h
    exact ⟨_, _, h⟩
  case calStage1 | calStage2 =>
    simp only [exec, execCalStage1, execCalStage2, withTable_next] at h
    obtain ⟨T, -, h⟩ := h
    split at h
    · exact ⟨_, _, datapathStep_next.1 h⟩
    · cases h

/-- A clock edge answers a next state exactly where no calibration input is driven or the table is usable. -/
theorem edge_next {p : Pins} {s t : State} :
    edge p s = .next t ↔ (calDriven p s = true → ∃ T, usableTable s = .ok T) ∧ t = edgeState p s := by
  unfold edge
  cases h : calDriven p s <;> simp [eq_comm]
  cases h' : usableTable s <;> simp [eq_comm]

theorem arrive_next {c : Chan} {b : Byte} {s t : State} :
    arrive c b s = .next t ↔
      queueFull s.params (s.lane c) = false ∧
        t = { s.setLane c { s.lane c with rxq := (s.lane c).rxq ++ [b] } with label := none } := by
  unfold arrive
  cases queueFull s.params (s.lane c) <;> simp [eq_comm]

theorem loadTable_next {T : CalTable} {s t : State} :
    loadTable T s = .next t ↔
      s.params.hasCal = true ∧ s.table = none ∧ loadCheck T = true ∧
        t = { s with table := some (sortKeys T), label := none } := by
  unfold loadTable
  cases s.params.hasCal <;> cases s.table <;> cases loadCheck T <;> simp [eq_comm]

/-- The word of an event decodes, to the instruction its kind, or `st` and its byte, name. -/
theorem runWord_next {c : Chan} {w : EventWord} {s t : State} :
    runWord c w s = .next t ↔ ∃ i, decode w = .ok i ∧ exec i (s.select c) = .next t := by
  unfold runWord
  cases h : decode w <;> simp

/-- Everything a step can do. -/
theorem step_cases {s t : State} (h : step s = .next t) :
    (∃ x ts, s.pending = x :: ts ∧ runTask x { s with pending := ts } = .next t) ∨
    (∃ x xs, s.pending = [] ∧ s.inputs = x :: xs ∧ runInput x { s with inputs := xs } = .next t) ∨
    (s.pending = [] ∧ s.inputs = [] ∧ edge Pins.low s = .next t) := by
  unfold step at h
  cases hp : s.pending with
  | cons x ts => rw [hp] at h; exact .inl ⟨x, ts, rfl, h⟩
  | nil =>
    rw [hp] at h
    cases hi : s.inputs with
    | cons x xs => rw [hi] at h; exact .inr (.inl ⟨x, xs, rfl, rfl, h⟩)
    | nil => rw [hi] at h; exact .inr (.inr ⟨rfl, rfl, h⟩)

/-- A task runs one instruction on the channel it names. -/
theorem runTask_next {x : Task} {s t : State} (h : runTask x s = .next t) : ∃ i c, exec i (s.select c) = .next t := by
  cases x with
  | event c e => obtain ⟨i, -, h⟩ := runWord_next.1 h; exact ⟨i, c, h⟩
  | word c w => obtain ⟨i, -, h⟩ := runWord_next.1 h; exact ⟨i, c, h⟩
  | datapath c op => exact ⟨_, c, h⟩

end Sys2Proof.Machine
end

