-- ==== Sys2Proof/Laws/Exec.lean ====
section
/-! SUPPORT. What each instruction can do, said once: if exec answers a next state, it is the one the rule writes. And one
step of a run. -/
namespace Sys2Proof.Machine

/-- The registers a byte event leaves (R79). -/
def byteRegisters (i : Instr) (b : Byte) (r : Reader) : Reader :=
  match i with
  | .wsSync => { r.tick with st := .readHigh }
  | .rhAccept _ => { r.tick with hi := lowNibble b, st := .readLow }
  | .rhReject _ => { r.tick with st := .waitSync }
  | .rlEmit _ => { r.tick.emit (assembleSample r.hi b) with armed := false, st := .waitSync }
  | _ => r.tick

/-- What a next state of an instruction is (R79, R87, R103 to R109). -/
def Effect (i : Instr) (s t : State) : Prop :=
  match i with
  | .wsSync | .wsSkip _ | .rhAccept _ | .rhReject _ | .rlEmit _ =>
    s.cur.reader.fatal = false ∧ s.cur.reader.armed = true ∧
      ∃ b rest lbl, s.cur.rxq = b :: rest ∧ classify s.cur.reader.st b = i ∧
        t = s.finish { s.cur with reader := byteRegisters i b s.cur.reader, rxq := rest } lbl
  | .nobyte =>
    s.cur.reader.fatal = false ∧ s.cur.reader.armed = true ∧ s.cur.rxq = [] ∧ t = s.finish s.cur.tick .transientIo
  | .req =>
    t = s.finish (if s.cur.reader.fatal ∨ s.cur.reader.armed then s.cur.tick
      else { s.cur with reader := { s.cur.reader.tick with armed := true } }) .nothing
  | .flush =>
    t = s.finish (if s.cur.reader.fatal then s.cur.tick
      else { s.cur with rxq := [], reader := { s.cur.reader.tick with st := .waitSync } }) .nothing
  | .cancel =>
    ∃ lbl, t = s.finish (if s.cur.reader.fatal then s.cur.tick
      else { s.cur with reader := { s.cur.reader.tick with armed := false, st := .waitSync } }) lbl
  | .devlost =>
    ∃ lbl, t = s.finish (if s.cur.reader.fatal then s.cur.tick
      else { s.cur with reader := { s.cur.reader.tick with fatal := true, armed := false, st := .waitSync } }) lbl
  | .reset => t = s.finish { reader := .reset, rxq := s.cur.rxq, flight := [], calRes := none } .nothing
  | .code2v _ | .calStage1 _ _ | .calStage2 _ _ | .calEval _ _ | .samplePower _ _ =>
    ∃ r, t = s.finish { s.cur with calRes := some r } .nothing

/-- If an instruction answers a next state, it is the one its rule writes. -/
theorem exec_effect {i : Instr} {s t : State} (h : exec i s = .next t) : Effect i s t := by
  cases i
  case wsSync | wsSkip | rhAccept | rhReject | rlEmit =>
    simp only [exec, execWsSync, execWsSkip, execRhAccept, execRhReject, execRlEmit, byteStep_next] at h
    obtain ⟨hf, ha, b, rest, hq, hc, ht⟩ := h
    exact ⟨hf, ha, b, rest, _, hq, hc, ht⟩
  case nobyte => exact execNobyte_next.1 h
  case req =>
    simp only [exec, execReq, controlStep_next] at h
    simp only [Effect, h]
    cases hf : s.cur.reader.fatal <;> cases ha : s.cur.reader.armed <;> simp [ha]
  case flush | cancel | devlost =>
    simp only [exec, execFlush, execCancel, execDevlost, controlStep_next] at h
    simp only [Effect, h]
    cases hf : s.cur.reader.fatal <;> simp
  case reset => cases h; rfl
  case code2v | calEval | samplePower =>
    simp only [exec, execCode2v, execCalEval, execSamplePower, withTable_next, datapathStep_next] at h
    obtain ⟨T, -, h⟩ := h
    exact ⟨_, h⟩
  case calStage1 | calStage2 =>
    simp only [exec, execCalStage1, execCalStage2, withTable_next] at h
    obtain ⟨T, -, h⟩ := h
    split at h
    · exact ⟨_, datapathStep_next.1 h⟩
    · cases h

/-- The event a byte is names the state it was met in (R73). -/
theorem classify_rhAccept {st : ProtoState} {b : Byte} {n : Nibble} (h : classify st b = .rhAccept n) :
    st = .readHigh ∧ lowNibble b = n := by
  cases st <;> simp only [classify] at h
  · split at h <;> cases h
  · split at h <;> cases h; exact ⟨rfl, rfl⟩
  · cases h

theorem classify_rlEmit {st : ProtoState} {b x : Byte} (h : classify st b = .rlEmit x) : st = .readLow ∧ b = x := by
  cases st <;> simp only [classify] at h
  · split at h <;> cases h
  · split at h <;> cases h
  · cases h; exact ⟨rfl, rfl⟩

/-- The fields of a packed word. -/
theorem fields_packWord (k : BitVec 3) (c : BitVec 2) (b : Byte) :
    kindField (packWord k c b) = k ∧ stField (packWord k c b) = c ∧ wordByte (packWord k c b) = b := by
  simp only [kindField, stField, wordByte, packWord]
  refine ⟨?_, ?_, ?_⟩ <;> (apply BitVec.eq_of_getElem_eq; intro i hi; simp; try grind)

/-- One step of a run. -/
theorem core_run_succ {n : Nat} {s t : State} (h : step s = .next t) : core.run (n + 1) s = core.run n t := by
  have h' : core.step s = .next t := h
  simp only [Host.Core.run, h']

end Sys2Proof.Machine
end

