-- ==== Sys2Proof/Laws/PerInstr.lean ====
section
/-! SUPPORT. The families of statements made per instruction. -/
namespace Sys2Proof.Laws

/-- The word of a well-formed instruction, met in any state, has the fixed bits of its row (30_encoding.md R63). -/
def RowPattern.Statement (i : Instr) : Prop :=
  i.wellFormed = true → ∀ st w, encodeAt st i = some w → w &&& rowMask i = rowMatch i

/-- A row whose byte field is free: the mask leaves the kind and the state. -/
theorem byte_row_pattern (b : Byte) :
    packWord 0b000#3 0b00#2 b &&& 0x1F00#13 = 0x0000#13 ∧ packWord 0b000#3 0b01#2 b &&& 0x1F00#13 = 0x0100#13 ∧
      packWord 0b000#3 0b10#2 b &&& 0x1F00#13 = 0x0200#13 := by
  revert b; decide +kernel

theorem RowPattern.wsSync : RowPattern.Statement .wsSync := by
  rintro - st w ⟨⟩; decide
theorem RowPattern.wsSkip (b : Byte) : RowPattern.Statement (.wsSkip b) := by
  rintro - st w ⟨⟩; exact (byte_row_pattern b).1
theorem RowPattern.rhAccept (n : Nibble) : RowPattern.Statement (.rhAccept n) := by
  rintro - st w ⟨⟩; revert n; decide
theorem RowPattern.rhReject (b : Byte) : RowPattern.Statement (.rhReject b) := by
  rintro - st w ⟨⟩; exact (byte_row_pattern b).2.1
theorem RowPattern.rlEmit (b : Byte) : RowPattern.Statement (.rlEmit b) := by
  rintro - st w ⟨⟩; exact (byte_row_pattern b).2.2
theorem RowPattern.nobyte : RowPattern.Statement .nobyte := by
  rintro - st w ⟨⟩; cases st <;> decide
theorem RowPattern.req : RowPattern.Statement .req := by
  rintro - st w ⟨⟩; cases st <;> decide
theorem RowPattern.flush : RowPattern.Statement .flush := by
  rintro - st w ⟨⟩; cases st <;> decide
theorem RowPattern.cancel : RowPattern.Statement .cancel := by
  rintro - st w ⟨⟩; cases st <;> decide
theorem RowPattern.devlost : RowPattern.Statement .devlost := by
  rintro - st w ⟨⟩; cases st <;> decide
theorem RowPattern.reset : RowPattern.Statement .reset := by
  rintro - st w ⟨⟩; cases st <;> decide
theorem RowPattern.code2v (code : Sample) : RowPattern.Statement (.code2v code) := by
  rintro - st w ⟨⟩
theorem RowPattern.calStage1 (k : Nat) (v : CalNum) : RowPattern.Statement (.calStage1 k v) := by
  rintro - st w ⟨⟩
theorem RowPattern.calStage2 (E : List CalNum) (f : CalNum) : RowPattern.Statement (.calStage2 E f) := by
  rintro - st w ⟨⟩
theorem RowPattern.calEval (v f : CalNum) : RowPattern.Statement (.calEval v f) := by
  rintro - st w ⟨⟩
theorem RowPattern.samplePower (code : Sample) (f : CalNum) : RowPattern.Statement (.samplePower code f) := by
  rintro - st w ⟨⟩

end Sys2Proof.Laws
end

