-- ==== Sys2Proof/Laws/Table.lean ====
section
/-! SUPPORT. The table's order: what the checks of 42_calibration.md R98 say as propositions, and what the sort at load
keeps (R99). -/
namespace Sys2Proof.Machine

theorem ascending_iff (l : List CalNum) : ascending l = true ↔ l.Pairwise (· < ·) := by
  induction l with
  | nil => simp [ascending]
  | cons x t ih =>
    cases t with
    | nil => simp [ascending]
    | cons y t =>
      simp only [ascending, Bool.and_eq_true, decide_eq_true_eq, ih, List.pairwise_cons]
      constructor
      · rintro ⟨h, h1, h2⟩
        refine ⟨fun z hz => ?_, h1, h2⟩
        rcases List.mem_cons.1 hz with rfl | hz
        · exact h
        · exact h.trans (h1 z hz)
      · rintro ⟨h, h1, h2⟩
        exact ⟨h y (by simp), h1, h2⟩

theorem nonDecreasing_iff (l : List CalNum) : nonDecreasing l = true ↔ l.Pairwise (· ≤ ·) := by
  induction l with
  | nil => simp [nonDecreasing]
  | cons x t ih =>
    cases t with
    | nil => simp [nonDecreasing]
    | cons y t =>
      simp only [nonDecreasing, Bool.and_eq_true, decide_eq_true_eq, ih, List.pairwise_cons]
      constructor
      · rintro ⟨h, h1, h2⟩
        refine ⟨fun z hz => ?_, h1, h2⟩
        rcases List.mem_cons.1 hz with rfl | hz
        · exact h
        · exact h.trans (h1 z hz)
      · rintro ⟨h, h1, h2⟩
        exact ⟨h y (by simp), h1, h2⟩

theorem allDistinct_iff (l : List CalNum) : allDistinct l = true ↔ l.Nodup := by
  induction l with
  | nil => simp [allDistinct]
  | cons x t ih => simp [allDistinct, ih]

theorem insertKey_perm (k : CalKey) (t : CalTable) : (insertKey k t).Perm (k :: t) := by
  induction t with
  | nil => exact .refl _
  | cons x t ih =>
    simp only [insertKey]
    split
    · exact .refl _
    · exact (ih.cons x).trans (.swap k x t)

theorem insertKey_sorted (k : CalKey) (t : CalTable) (h : t.Pairwise (fun a b => a.freq ≤ b.freq)) :
    (insertKey k t).Pairwise (fun a b => a.freq ≤ b.freq) := by
  induction t with
  | nil => simp [insertKey]
  | cons x t ih =>
    obtain ⟨hx, ht⟩ := List.pairwise_cons.1 h
    simp only [insertKey]
    split
    · rename_i hk
      refine List.pairwise_cons.2 ⟨fun z hz => ?_, h⟩
      rcases List.mem_cons.1 hz with rfl | hz
      · exact hk
      · exact hk.trans (hx z hz)
    · rename_i hk
      refine List.pairwise_cons.2 ⟨fun z hz => ?_, ih ht⟩
      rcases List.mem_cons.1 ((insertKey_perm k t).mem_iff.1 hz) with rfl | hz
      · exact (not_le.1 hk).le
      · exact hx z hz

theorem sortKeys_sorted (t : CalTable) : (sortKeys t).Pairwise (fun a b => a.freq ≤ b.freq) := by
  induction t with
  | nil => simp [sortKeys]
  | cons k t ih => exact insertKey_sorted k _ ih

end Sys2Proof.Machine
end

