-- ==== Sys2Proof/Tests/Slice0.lean ====
section
/-! SUPPORT. The model's own tests: well-formedness smoke, one decoded word per event, the vectors of 95_test_vectors.md on
single steps, and, for every obligation with hypotheses, a witness that meets them together. -/
namespace Sys2Proof.Tests
open Sys2Proof.Machine

-- ==== Helpers ====

/-- A channel with these registers and this queue. -/
def chan (st : ProtoState) (hi : Nibble) (armed fatal : Bool) (data : Sample) (valid : Bool) (q : List Byte) : Lane :=
  { reader := { st := st, hi := hi, armed := armed, fatal := fatal, smpData := data, smpValid := valid }
    rxq := q, flight := [], calRes := none }

/-- The machine with this channel A. -/
def mach (l : Lane) : State := { State.reset with laneA := l }

/-- Channel A and the label after a result, `none` where there is no next state. -/
def after : Result → Option (Lane × Option Label)
  | .next t => some (t.laneA, t.label)
  | _ => none

/-- The refusal of a result. -/
def refusal : Result → Option Refusal
  | .refused r => some r
  | _ => none

/-- The result on channel A's datapath output. -/
def output : Result → Option CalResult
  | .next t => t.laneA.calRes
  | _ => none

/-- Table T1 of 95_test_vectors.md. -/
def tableT1 : CalTable :=
  [⟨1000000000, [⟨0, -10⟩, ⟨1, 10⟩]⟩, ⟨2000000000, [⟨0, -8⟩, ⟨1, 12⟩]⟩]

/-- The machine with T1 loaded. -/
def machT1 : State := { State.reset with table := some tableT1 }

theorem tableT1_usable : usableTable machT1 = .ok tableT1 := usableTable_ok.2 ⟨rfl, rfl, by decide +kernel⟩

theorem code2v_runs (code : Sample) : ∃ t, exec (.code2v code) machT1 = .next t :=
  ⟨_, (withTable_ok tableT1_usable :
    execCode2v code machT1 = datapathStep (.voltage (codeToVoltage machT1.params.adcDiv code)) machT1)⟩

-- ==== Well-formedness smoke: an ill-formed term for each check ====

theorem test_wf_refuses_skip_of_sync : (Instr.wsSkip 0xFF#8).wellFormed = false := by decide
theorem test_wf_refuses_reject_of_valid_high : (Instr.rhReject 0x0F#8).wellFormed = false := by decide
theorem test_wf_refuses_one_estimate : (Instr.calStage2 [1] 0).wellFormed = false := by decide
theorem test_wf_admits_neighbours :
    (Instr.wsSkip 0xFE#8).wellFormed = true ∧ (Instr.rhReject 0x10#8).wellFormed = true ∧
      (Instr.calStage2 [1, 2] 0).wellFormed = true := by decide

-- ==== Decoding: words written out from the tables of R63 and section 2.5 of the vectors ====

theorem test_decode_ws_sync : decode 0b0000011111111#13 = .ok .wsSync := by decide
theorem test_decode_ws_skip : decode 0b0000011111110#13 = .ok (.wsSkip 0xFE#8) := by decide
theorem test_decode_rh_accept : decode 0b0000100001010#13 = .ok (.rhAccept 0xA#4) := by decide
theorem test_decode_rh_reject : decode 0b0000100010000#13 = .ok (.rhReject 0x10#8) := by decide
theorem test_decode_rl_emit : decode 0b0001010111100#13 = .ok (.rlEmit 0xBC#8) := by decide
theorem test_decode_nobyte : decode 0b0011110100101#13 = .ok .nobyte := by decide
theorem test_decode_req : decode 0b0101111111111#13 = .ok .req := by decide
theorem test_decode_flush : decode 0b0110000000000#13 = .ok .flush := by decide
theorem test_decode_cancel : decode 0b1001000110100#13 = .ok .cancel := by decide
theorem test_decode_devlost : decode 0b1010000000000#13 = .ok .devlost := by decide
theorem test_decode_reset : decode 0b1101111111111#13 = .ok .reset := by decide
theorem test_decode_datapath :
    decodeDatapath (.code2v 1#12) = .code2v 1#12 ∧ decodeDatapath (.calStage1 1 2) = .calStage1 1 2 ∧
    decodeDatapath (.calStage2 [1, 2] 3) = .calStage2 [1, 2] 3 ∧ decodeDatapath (.calEval 1 2) = .calEval 1 2 ∧
    decodeDatapath (.samplePower 1#12 2) = .samplePower 1#12 2 := by decide +kernel
theorem test_decode_rejects_st_3 :
    decode 0x0300#13 = .error .noSuchState ∧ decode 0x03FF#13 = .error .noSuchState := by decide
theorem test_decode_rejects_kind_7 :
    decode 0x1C00#13 = .error .reservedKind ∧ decode 0x1FFF#13 = .error .reservedKind := by decide
theorem test_decode_table_word :
    decodeTableWord 16 0x010A = some (.rhAccept 0xA#4) ∧ decodeTableWord 16 0x0300 = none ∧
      decodeTableWord 16 0x20FF = none := by decide

-- ==== Single steps: vectors B and K of 95_test_vectors.md ====

theorem test_ws_sync_B1 :
    after (exec .wsSync (mach (chan .waitSync 0 true false 0 false [0xFF#8]))) =
      some (chan .readHigh 0 true false 0 false [], some .nothing) := by decide
theorem test_ws_skip_B4 :
    after (exec (.wsSkip 0x0F#8) (mach (chan .waitSync 0 true false 0 false [0x0F#8, 0xFF#8]))) =
      some (chan .waitSync 0 true false 0 false [0xFF#8], some .nothing) := by decide
theorem test_rh_accept_B7 :
    after (exec (.rhAccept 0xF#4) (mach (chan .readHigh 5 true false 0 false [0x0F#8]))) =
      some (chan .readLow 15 true false 0 false [], some .nothing) := by decide
theorem test_rh_reject_B10 :
    after (exec (.rhReject 0xFF#8) (mach (chan .readHigh 5 true false 0 false [0xFF#8]))) =
      some (chan .waitSync 5 true false 0 false [], some (.syncFault 0xFF#8)) := by decide
theorem test_rl_emit_B13 :
    after (exec (.rlEmit 0xBC#8) (mach (chan .readLow 10 true false 0 false [0xBC#8]))) =
      some (chan .waitSync 10 false false 0xABC#12 true [], some .emit) := by decide
theorem test_rl_emit_B15 :
    after (exec (.rlEmit 0xFF#8) (mach (chan .readLow 15 true false 0 false [0xFF#8]))) =
      some (chan .waitSync 15 false false 0xFFF#12 true [], some .emit) := by decide
theorem test_nobyte_K3 :
    after (exec .nobyte (mach (chan .readLow 3 true false 0 false []))) =
      some (chan .readLow 3 true false 0 false [], some .transientIo) := by decide
theorem test_req_K1 :
    after (exec .req (mach (chan .waitSync 0 false false 0 false [0x21#8]))) =
      some (chan .waitSync 0 true false 0 false [0x21#8], some .nothing) := by decide
theorem test_req_K2 :
    after (exec .req (mach (chan .readLow 3 true false 0 false []))) =
      some (chan .readLow 3 true false 0 false [], some .nothing) := by decide
theorem test_flush_K5 :
    after (exec .flush (mach (chan .readHigh 0 true false 0 false [0x05#8, 0x77#8]))) =
      some (chan .waitSync 0 true false 0 false [], some .nothing) := by decide
theorem test_flush_K12 :
    after (exec .flush (mach (chan .waitSync 0 false true 0x123#12 false [0x05#8]))) =
      some (chan .waitSync 0 false true 0x123#12 false [0x05#8], some .nothing) := by decide
theorem test_cancel_K7 :
    after (exec .cancel (mach (chan .readLow 3 true false 0 false [0x21#8]))) =
      some (chan .waitSync 3 false false 0 false [0x21#8], some .cancelled) := by decide
theorem test_cancel_K8 :
    after (exec .cancel (mach (chan .waitSync 3 false false 0 false []))) =
      some (chan .waitSync 3 false false 0 false [], some .nothing) := by decide
theorem test_devlost_K10 :
    after (exec .devlost (mach (chan .waitSync 0 false false 0x123#12 false []))) =
      some (chan .waitSync 0 false true 0x123#12 false [], some .deviceLost) := by decide
theorem test_reset_K13 :
    after (exec .reset (mach (chan .waitSync 7 false true 0x123#12 false [0x01#8]))) =
      some (chan .waitSync 0 false false 0 false [0x01#8], some .nothing) := by decide
theorem test_idle_cycle_K15 :
    after (step (mach (chan .waitSync 10 false false 0xABC#12 true []))) =
      some (chan .waitSync 10 false false 0xABC#12 false [], none) := by decide
theorem test_code2v_1365 : output (exec (.code2v 1365#12) machT1) = some (.voltage (11 / 10)) := by decide +kernel
theorem test_cal_stage1_T1 : output (exec (.calStage1 1 (1 / 2)) machT1) = some (.estimate 1 2) := by decide +kernel
theorem test_cal_stage2_T1 : output (exec (.calStage2 [0, 2] 1500000000) machT1) = some (.interpolated 1) := by
  decide +kernel
theorem test_cal_eval_vcal_1 : output (exec (.calEval (1 / 2) 1500000000) machT1) = some (.power (43 / 10)) := by
  decide +kernel
theorem test_cal_eval_vcal_6 : output (exec (.calEval (1 / 2) 3000000000) machT1) = some (.power (73 / 10)) := by
  decide +kernel
theorem test_sample_power_vcal_11 :
    output (exec (.samplePower 273#12 1250000000) machT1) = some (.reading 1250000000 (-9 / 5)) := by decide +kernel

-- ==== The fetch: a word of the table run as the first instruction after reset ====

theorem test_fetch_rl_emit :
    after (step (State.reset.withFetchWord 16 0x02BC)) =
      some (chan .waitSync 0 false false 0x0BC#12 true [], some .emit) := by decide
theorem test_fetch_nobyte :
    after (step (State.reset.withFetchWord 16 0x0600)) =
      some (chan .waitSync 0 true false 0 false [], some .transientIo) := by decide
theorem test_fetch_invalid :
    refusal (step (State.reset.withFetchWord 16 0x0300)) = some (.undecodable .noSuchState) := by decide

-- ==== Pins: vectors Y of 95_test_vectors.md ====

theorem test_resolve_Y4 :
    resolve (chan .readLow 0 true false 0 false []).reader { ReaderPins.low with flush := true, req := true } true
      (some 0x01#8) = [.cancel, .flush] := by decide
theorem test_resolve_Y7 :
    resolve (chan .waitSync 0 true false 0 false []).reader { ReaderPins.low with req := true } false (some 0x01#8) =
      [.req, .byte 0x01#8] := by decide

-- ==== Requests: vectors V7, V8 and V20 of 95_test_vectors.md ====

theorem test_next_sample_V7 :
    nextSample [0xFF#8, 0x05#8, 0xFF#8, 0x0A#8] = .done 0x5FF#12 [0x0A#8] := by decide
theorem test_next_sample_V8 :
    nextSample [0xFF#8, 0xFF#8, 0x02#8, 0xFF#8, 0xFF#8, 0x02#8, 0x10#8, 0xFF#8, 0x02#8, 0x11#8] = .done 0x211#12 [] := by
  decide
theorem test_pseudo_instructions :
    frameEvents 0xABC#12 = [.byte 0xFF#8, .byte 0x0A#8, .byte 0xBC#8] ∧ idleEvents 2 = [.nobyte, .nobyte] ∧
      sampleEvents = [.flush, .req] := by decide

-- ==== The load check: tables of 95_test_vectors.md 2.6 ====

theorem test_load_check_refuses :
    loadCheck [⟨1, [⟨0, 0⟩, ⟨1, 1⟩]⟩] = false ∧
    loadCheck [⟨1, [⟨0, 0⟩]⟩, ⟨2, [⟨0, 0⟩, ⟨1, 1⟩]⟩] = false ∧
    loadCheck [⟨1, [⟨1 / 2, 1⟩, ⟨1 / 2, 2⟩]⟩, ⟨2, [⟨0, 0⟩, ⟨1, 1⟩]⟩] = false ∧
    loadCheck [⟨1, [⟨1, 1⟩, ⟨0, 2⟩]⟩, ⟨2, [⟨0, 0⟩, ⟨1, 1⟩]⟩] = false ∧
    loadCheck [⟨1, [⟨0, 0⟩, ⟨1, 1⟩]⟩, ⟨1, [⟨0, 0⟩, ⟨1, 1⟩]⟩] = false := by decide +kernel
theorem test_load_sorts : sortKeys tableT1.reverse = tableT1 := by decide +kernel
theorem test_outside_the_keys_the_power_may_fall :
    calPower [⟨1000000000, [⟨0, 0⟩, ⟨1, 10⟩]⟩, ⟨2000000000, [⟨0, 0⟩, ⟨1, 1⟩]⟩] 1 3000000000 = -47 / 10 := by
  decide +kernel

-- ==== Witnesses: a state and operands that meet the hypotheses of each obligation together ====

theorem witness_DecodeInvertsEncode :
    (Instr.rhReject 0x10#8).wellFormed = true ∧ encodeAt .readLow (.rhReject 0x10#8) = some 0x0110#13 ∧
      Instr.cancel.wellFormed = true ∧ encodeAt .readLow .cancel = some 0x1200#13 := by decide
theorem witness_DecodedWordsMatchTheirRow : decode 0x010F#13 = .ok (.rhAccept 0xF#4) ∧ decode 0x1BFF#13 = .ok .reset := by
  decide
theorem witness_SampleAssemblyIsShiftOr : (0x0F#8 : Byte) &&& 0xF0#8 = 0x00#8 := by decide
theorem witness_WsSyncMovesToReadHigh :
    let s := mach (chan .waitSync 0 true false 0 false [0xFF#8, 0x01#8])
    s.cur.reader.armed = true ∧ s.cur.reader.fatal = false ∧ s.cur.reader.st = .waitSync ∧ s.cur.rxq = 0xFF#8 :: [0x01#8] := by
  decide
theorem witness_WsSkipDiscardsTheByte :
    let s := mach (chan .waitSync 0 true false 0 false [0xFE#8])
    (0xFE#8 : Byte) ≠ 0xFF#8 ∧ s.cur.reader.armed = true ∧ s.cur.reader.fatal = false ∧ s.cur.reader.st = .waitSync ∧
      s.cur.rxq = 0xFE#8 :: [] := by decide
theorem witness_RhAcceptCapturesTheNibble :
    let s := mach (chan .readHigh 0 true false 0 false [0x0F#8])
    s.cur.reader.armed = true ∧ s.cur.reader.fatal = false ∧ s.cur.reader.st = .readHigh ∧
      s.cur.rxq = (0b0000#4 ++ 0xF#4) :: [] := by decide
theorem witness_RhRejectReturnsToWaitSync :
    let s := mach (chan .readHigh 0 true false 0 false [0x10#8])
    (0x10#8 : Byte).extractLsb' 4 4 ≠ 0x0#4 ∧ s.cur.reader.armed = true ∧ s.cur.reader.fatal = false ∧
      s.cur.reader.st = .readHigh ∧ s.cur.rxq = 0x10#8 :: [] := by decide
theorem witness_RlEmitEmitsTheSample :
    let s := mach (chan .readLow 15 true false 0 false [0xFF#8])
    s.cur.reader.armed = true ∧ s.cur.reader.fatal = false ∧ s.cur.reader.st = .readLow ∧ s.cur.rxq = 0xFF#8 :: [] := by
  decide
theorem witness_NobyteChangesNothing :
    let s := mach (chan .readHigh 0 true false 0 false [])
    s.cur.reader.armed = true ∧ s.cur.reader.fatal = false ∧ s.cur.rxq = [] := by decide
theorem witness_ReqArmsAnIdleReader :
    State.reset.cur.reader.fatal = false ∧ State.reset.cur.reader.armed = false ∧
      (mach (chan .readLow 3 true false 0 false [])).cur.reader.fatal = false := by decide
theorem witness_FlushEmptiesTheQueue :
    (mach (chan .readHigh 0 true false 0 false [0x05#8])).cur.reader.fatal = false := by decide
theorem witness_CancelEndsTheRequest :
    (mach (chan .readLow 3 true false 0 false [0x21#8])).cur.reader.fatal = false ∧
      State.reset.cur.reader.fatal = false := by decide
theorem witness_DevlostSetsFatal :
    (mach (chan .readHigh 0 true false 0 false [])).cur.reader.fatal = false := by decide
theorem witness_FatalReaderIgnoresControlEvents :
    (mach (chan .waitSync 0 false true 0 false [0x05#8])).cur.reader.fatal = true ∧
      Instr.devlost ∈ [Instr.req, .flush, .cancel, .devlost] := by decide
theorem witness_NoStepOutsideTheEnablingCondition :
    (mach (chan .waitSync 0 false true 0 false [])).cur.reader.fatal = true ∧
    State.reset.cur.reader.fatal = false ∧ State.reset.cur.reader.armed = false ∧
    (isByteEvent (.rlEmit 0#8) = true ∧
      (mach (chan .readLow 0 true false 0 false [])).cur.rxq = [] ∧
      (mach (chan .readLow 0 true false 0 false [])).cur.reader.armed = true) ∧
    (isByteEvent .wsSync = true ∧
      classify (mach (chan .waitSync 0 true false 0 false [0xFE#8])).cur.reader.st 0xFE#8 ≠ .wsSync) ∧
    (mach (chan .waitSync 0 true false 0 false [0xFE#8])).cur.rxq = 0xFE#8 :: [] := by decide
/-- A next state and hypotheses on it, for the rules over all instructions. -/
theorem witness_rules_over_all_instructions :
    (∃ t, exec (.rlEmit 0xFF#8) (mach (chan .readLow 15 true false 0 false [0xFF#8])) = .next t) ∧
    (∃ t, exec .req State.reset = .next t ∧ State.reset.cur.reader.armed = false ∧ t.cur.reader.armed = true) ∧
    (∃ t, exec .reset (mach (chan .waitSync 0 false true 0 false [])) = .next t ∧
      (mach (chan .waitSync 0 false true 0 false [])).cur.reader.fatal = true) ∧
    (∃ t, exec .devlost State.reset = .next t ∧ State.reset.cur.reader.fatal = false) ∧
    (∃ t, exec (.rhAccept 0xA#4) (mach (chan .readHigh 0 true false 0 false [0x0A#8])) = .next t ∧
      (mach (chan .readHigh 0 true false 0 false [0x0A#8])).cur.reader.st ≠ .readLow) ∧
    ((∃ t, exec (.code2v 0#12) machT1 = .next t) ∧ (Instr.code2v 0#12).hasWord = false) := by
  refine ⟨⟨_, rfl⟩, ⟨_, rfl, rfl, rfl⟩, ⟨_, rfl, rfl⟩, ⟨_, rfl, rfl⟩, ⟨_, rfl, by decide⟩, code2v_runs _, rfl⟩
/-- Two states that agree on the table, `HAS_CAL` and `ADC_DIV`, and on nothing else. -/
theorem witness_DatapathReadsOnlyItsOperands :
    let s' : State :=
      { mach (chan .readLow 7 true false 9 false [0x01#8]) with
        table := some tableT1
        params := { Params.initial with rxqDepth := some 1, calLatency := 3, uartBitOrder := .msbFirst } }
    (Instr.code2v 4095#12).hasWord = false ∧ s'.table = machT1.table ∧ s'.params.hasCal = machT1.params.hasCal ∧
    s'.params.adcDiv = machT1.params.adcDiv ∧ ∃ t, exec (.code2v 4095#12) machT1 = .next t :=
  ⟨rfl, rfl, rfl, rfl, code2v_runs _⟩
/-- A usable table, its last key and the first index past it, and right and wrong numbers of estimates. -/
theorem witness_datapath_on_a_table :
    usableTable machT1 = .ok tableT1 ∧ 1 < tableT1.length ∧ tableT1.length ≤ 2 ∧
      [(0 : CalNum), 2].length = tableT1.length ∧ [(0 : CalNum)].length ≠ tableT1.length :=
  ⟨tableT1_usable, by decide, by decide, by decide, by decide⟩
theorem witness_DatapathNeedsAPresentCheckedTable :
    (Instr.code2v 0#12).hasWord = false ∧ (Instr.calEval 0 0).hasWord = false ∧
    ({ State.reset with params := { Params.initial with hasCal := false } } : State).params.hasCal = false ∧
    State.reset.params.hasCal = true ∧ State.reset.table = none ∧
    ({ State.reset with table := some [] } : State).table = some [] ∧ tableWf [] = false :=
  ⟨rfl, rfl, rfl, rfl, rfl, rfl, by decide⟩
theorem test_no_operation_before_the_table :
    refusal (exec (.code2v 0#12) State.reset) = some .noCalTable ∧
    refusal (exec (.code2v 0#12) { State.reset with table := some [] }) = some .configError := by decide
theorem witness_TableLoadIsCheckedAndSorted :
    loadCheck tableT1.reverse = true ∧ loadCheck [] = false ∧ State.reset.params.hasCal = true ∧
    ({ State.reset with inputs := [.loadTable tableT1] } : State).inputs = .loadTable tableT1 :: [] ∧
    State.reset.pending = [] ∧ State.reset.table = none ∧ machT1.table = some tableT1 := by
  refine ⟨by decide +kernel, by decide, rfl, rfl, rfl, rfl, rfl⟩
theorem witness_LerpIsTheLineThroughTwoPoints : (0 : CalNum) ≠ 1 := by decide +kernel
/-- Three points; each of the four clauses has a value: a point, an inner one, below the first, at the last. -/
theorem witness_PwLinPassesThroughItsPoints :
    ascending [0, 1, 2] = true ∧ 2 ≤ [(0 : CalNum), 1, 2].length ∧ [(-20 : CalNum), -10, 10].length = [(0 : CalNum), 1, 2].length ∧
    (1 + 1 < [(0 : CalNum), 1, 2].length ∧ [(0 : CalNum), 1, 2].getD 1 0 ≤ 1 ∧ 1 < [(0 : CalNum), 1, 2].getD 2 0) ∧
    (-1 : CalNum) < [(0 : CalNum), 1, 2].getD 0 0 ∧ [(0 : CalNum), 1, 2].getD 2 0 ≤ 2 := by decide +kernel
theorem witness_Code2vIsStrictlyIncreasing : (0x000#12 : Sample).toNat < (0x001#12 : Sample).toNat := by decide
theorem witness_CalEvalIsExactAtTheTable :
    tableWf tableT1 = true ∧ 1 < tableT1.length ∧ 1 < (tabPoints tableT1 1).length := by decide +kernel
/-- T1 has non-decreasing powers; the frequency stands at the lower end of the key range, and at the upper one. -/
theorem witness_PowerDoesNotDecreaseWithVoltage :
    tableWf tableT1 = true ∧ (∀ k, k < tableT1.length → nonDecreasing (tabPowers tableT1 k) = true) ∧
    ((tabFreqs tableT1).getD 0 0 ≤ 1000000000 ∧ 1000000000 ≤ (tabFreqs tableT1).getD (tableT1.length - 1) 0) ∧
    ((tabFreqs tableT1).getD 0 0 ≤ 2000000000 ∧ 2000000000 ≤ (tabFreqs tableT1).getD (tableT1.length - 1) 0) ∧
    (-1 : CalNum) ≤ 4 ∧ (0#12 : Sample).toNat ≤ (4095#12 : Sample).toNat := by decide +kernel
theorem witness_PipelineDelaysByTheLatency : 2 < [some (1#12, (5 : CalNum)), none, none].length := by decide
theorem witness_StepRunsTheDecodedInstruction :
    let s (k : Task) : State := { State.reset with pending := [k] }
    let u (k : Task) : State := { State.reset with inputs := [.present k] }
    (s (.event .b .req)).pending = .event .b .req :: [] ∧
    decode (eventWord ((s (.event .b .req)).lane .b).reader.st .req) = .ok .req ∧
    ((u (.word .a 0x0C00#13)).pending = [] ∧ (u (.word .a 0x0C00#13)).inputs = .present (.word .a 0x0C00#13) :: []) ∧
    decode 0x0C00#13 = .ok .flush ∧ decode 0x1FFF#13 = .error .reservedKind ∧
    (s (.datapath .a (.code2v 1#12))).pending = .datapath .a (.code2v 1#12) :: [] := by
  refine ⟨rfl, by decide, ⟨rfl, rfl⟩, by decide, by decide, rfl⟩
/-- An unbounded queue, and a queue of depth 1 one byte short of full and full. -/
theorem witness_ArrivalsQueueInOrder :
    State.reset.pending = [] ∧
    ({ State.reset with inputs := [.arrive .a 0x01#8] } : State).inputs = .arrive .a 0x01#8 :: [] ∧
    (∀ d, State.reset.params.rxqDepth = some d → (State.reset.lane .a).rxq.length < d) ∧
    (let s : State :=
      { State.reset with params := { Params.initial with rxqDepth := some 1 }, laneA := chan .waitSync 0 false false 0 false [0x01#8] }
    s.params.rxqDepth = some 1 ∧ 1 ≤ (s.lane .a).rxq.length ∧ (s.lane .b).rxq.length < 1) :=
  ⟨rfl, rfl, fun _ h => (nomatch h), rfl, by decide, by decide⟩
/-- A reader with a request outstanding, and pins of both last clauses: with `flush`, and without `cancel` and `flush`. -/
theorem witness_PinsResolveInPriorityOrder :
    let r := (chan .readLow 0 true false 0 false []).reader
    let p := { ReaderPins.low with flush := true, req := true }
    let p' := { ReaderPins.low with req := true }
    r.armed = true ∧ r.fatal = false ∧ Reader.reset.armed = false ∧
    p.rst = false ∧ p.rxLost = false ∧ p.flush = true ∧ p.req = true ∧
    p'.rst = false ∧ p'.rxLost = false ∧ p'.flush = false ∧ p'.req = true := by decide
/-- A clock edge with the calibration inputs driven and a usable table. -/
theorem witness_clock_cycle :
    let p : Pins := { a := { ReaderPins.low with cal := .direct 1365#12 1500000000 }, b := .low, cancel := true }
    let s : State := { machT1 with inputs := [.cycle p] }
    s.pending = [] ∧ s.inputs = .cycle p :: [] ∧ calDriven p s = true ∧ ∃ T, usableTable s = .ok T :=
  ⟨rfl, rfl, rfl, tableT1, usableTable_ok.2 ⟨rfl, rfl, by decide +kernel⟩⟩
/-- A clock edge with no input left. -/
theorem witness_clock_edge_without_input :
    State.reset.pending = [] ∧ State.reset.inputs = [] ∧ calDriven Pins.low State.reset = false := by decide
theorem witness_CancelBeatsALowByteOffered :
    let s : State :=
      { mach (chan .readLow 3 true false 0 false [0x21#8]) with
        inputs := [.cycle { a := .low, b := .low, cancel := true }] }
    s.pending = [] ∧ s.inputs = .cycle { a := .low, b := .low, cancel := true } :: [] ∧ s.laneA.reader.armed = true ∧
    s.laneA.reader.fatal = false ∧ s.laneA.reader.st = .readLow ∧ s.laneA.rxq = 0x21#8 :: [] ∧ s.laneA.flight = [] ∧
    s.laneB.reader.fatal = false ∧ s.laneB.flight = [] := by decide +kernel
/-- Channel A, with a latency of 1. -/
theorem witness_SampleReachesThePowerOutput :
    let p : Pins := { a := { ReaderPins.low with cal := .wired 1500000000 }, b := .low, cancel := false }
    let s : State :=
      { machT1 with
        laneA := chan .waitSync 5 false false 0x555#12 true []
        params := { Params.initial with calLatency := 1 }
        inputs := [.cycle p, .cycle Pins.low] }
    p.chan .a = { ReaderPins.low with cal := .wired 1500000000 } ∧ p.chan (otherChan .a) = .low ∧ p.cancel = false ∧
    s.pending = [] ∧ s.inputs = .cycle p :: (List.replicate s.params.calLatency (.cycle Pins.low) ++ []) ∧
    usableTable s = .ok tableT1 ∧ (∀ x, (s.lane x).flight = [] ∧ (s.lane x).reader.armed = false) ∧
    (s.lane .a).reader.smpValid = true :=
  ⟨rfl, rfl, rfl, rfl, rfl, usableTable_ok.2 ⟨rfl, rfl, by decide +kernel⟩,
    fun x => by cases x <;> exact ⟨rfl, rfl⟩, rfl⟩
theorem witness_EveryStepKeepsTheInvariants : State.reset.Inv ∧ ∃ t, step State.reset = .next t :=
  ⟨⟨by decide, by decide, by decide⟩, _, rfl⟩
/-- A reset step of a fatal channel, and a step of a machine with a table. -/
theorem witness_OnlyAResetStepLeavesFatal :
    (∃ t, step { mach (chan .waitSync 0 false true 0 false []) with pending := [.event .a .reset] } = .next t ∧
      (t.lane .a).reader.fatal = false) ∧
    (∃ t, step machT1 = .next t) ∧ machT1.table = some tableT1 :=
  ⟨⟨_, rfl, rfl⟩, ⟨_, rfl⟩, rfl⟩
theorem witness_ReaderHasExactlyOneShape :
    Reader.reset.Inv ∧ (chan .readLow 15 true false 0 false []).reader.Inv ∧
      (chan .waitSync 0 false true 0 false []).reader.Inv := by decide
theorem witness_NobyteNeverEndsARequest :
    let s : State :=
      { mach (chan .readLow 10 true false 0 false []) with inputs := List.replicate 2 (.present (.event .a .nobyte)) ++ [] }
    s.pending = [] ∧ s.inputs = List.replicate 2 (.present (.event .a .nobyte)) ++ [] ∧ (s.lane .a).reader.armed = true ∧
    (s.lane .a).reader.fatal = false ∧ (s.lane .a).rxq = [] := by
  refine ⟨rfl, rfl, rfl, rfl, rfl⟩
/-- A frame with one byte after it, whose scan is done, and a supply that runs out, whose scan is pending. -/
theorem witness_RunOfByteEventsComputesScan :
    let s : State :=
      { mach (chan .waitSync 0 true false 0 false [0xFF#8, 0x0A#8, 0xBC#8, 0x77#8]) with
        inputs := (bytesEvents [0xFF#8, 0x0A#8, 0xBC#8]).map (fun e => .present (.event .a e)) }
    s.pending = [] ∧ (s.lane .a).reader.armed = true ∧ (s.lane .a).reader.fatal = false ∧
    ScanState.At .waitSync (s.lane .a).reader ∧ (s.lane .a).rxq = [0xFF#8, 0x0A#8, 0xBC#8, 0x77#8] ∧
    scan .waitSync [0xFF#8, 0x0A#8, 0xBC#8, 0x77#8] = .done 0xABC#12 [0x77#8] ∧
    s.inputs = ([0xFF#8, 0x0A#8, 0xBC#8, 0x77#8].take (4 - 1)).map (fun b => .present (.event .a (.byte b))) ++ [] ∧
    scan .waitSync [0xFF#8, 0x0C#8] = .pending (.readLow 0xC#4) :=
  ⟨rfl, rfl, rfl, rfl, rfl, by decide, rfl, by decide⟩
theorem witness_LeadingGarbageIsSkipped :
    (∀ b ∈ [0x00#8, 0xFE#8], b ≠ (0xFF#8 : Byte)) ∧ (∀ b ∈ ([] : List Byte), b ≠ 0xFF#8) ∧
      [0xFF#8, 0x0F#8, 0xFF#8] = [] ++ frame 0xFFF#12 ++ [] := by decide
theorem witness_InvalidHighByteIsDropped :
    (0x10#8 : Byte) &&& 0xF0#8 ≠ 0x00#8 ∧ (0xFF#8 : Byte) &&& 0xF0#8 ≠ 0x00#8 := by decide

end Sys2Proof.Tests
end

section
/-! Where a datapath operation has no meaning (00_scope.md R6): the table an operation may use, or the refusal in its
place, decides all five operations at once; the operand ranges of R105 and R106 come after it. -/
namespace Sys2Proof.Machine

theorem usableTable_of_no_datapath {s : State} (hcal : s.params.hasCal = false) :
    usableTable s = .error .noCalDatapath := by
  simp [usableTable, hcal]

theorem usableTable_of_no_table {s : State} (hcal : s.params.hasCal = true) (htable : s.table = none) :
    usableTable s = .error .noCalTable := by
  simp [usableTable, hcal, htable]

theorem usableTable_of_ill_formed {s : State} {T : CalTable} (hcal : s.params.hasCal = true) (htable : s.table = some T)
    (hwf : tableWf T = false) : usableTable s = .error .configError := by
  simp [usableTable, hcal, htable, hwf]

theorem withTable_error {s : State} {k : CalTable → Result} {r : Refusal} (h : usableTable s = .error r) :
    withTable s k = .refused r := by
  simp [withTable, h]

/-- All five datapath operations ask for the usable table first, and refuse as it does (R98, R140). -/
theorem exec_datapath_of_usableTable_error {i : Instr} {s : State} {r : Refusal} (hi : i.hasWord = false)
    (h : usableTable s = .error r) : exec i s = .refused r := by
  cases i
  case code2v | calStage1 | calStage2 | calEval | samplePower => exact withTable_error h
  all_goals cases hi

/-- On a usable table, `CAL_STAGE1` is decided by its key index alone (R105). -/
theorem exec_calStage1_ok {s : State} {T : CalTable} {k : Nat} {v : CalNum} (h : usableTable s = .ok T) :
    exec (.calStage1 k v) s =
      if k < T.length then datapathStep (.estimate k (stage1 T k v)) s else .refused .noSuchKey :=
  withTable_ok h

/-- On a usable table, `CAL_STAGE2` is decided by the number of its estimates alone (R106). -/
theorem exec_calStage2_ok {s : State} {T : CalTable} {E : List CalNum} {f : CalNum} (h : usableTable s = .ok T) :
    exec (.calStage2 E f) s =
      if E.length = T.length then datapathStep (.interpolated (stage2 T E f)) s else .refused .wrongEstimateCount :=
  withTable_ok h

/-- Settles O36: the first three clauses are the three ways to have no usable table, the last two the operand ranges
on a usable one. -/
theorem datapathNeedsAPresentCheckedTable : Obligations.DatapathNeedsAPresentCheckedTable := by
  refine ⟨?no_datapath, ?no_table, ?ill_formed, ?key_past_table, ?wrong_count⟩
  case no_datapath =>
    intro s i hi hcal
    exact exec_datapath_of_usableTable_error hi (usableTable_of_no_datapath hcal)
  case no_table =>
    intro s i hi hcal htable
    exact exec_datapath_of_usableTable_error hi (usableTable_of_no_table hcal htable)
  case ill_formed =>
    intro s i T hi hcal htable hwf
    exact exec_datapath_of_usableTable_error hi (usableTable_of_ill_formed hcal htable hwf)
  case key_past_table =>
    intro s T k v hT hk
    rw [exec_calStage1_ok hT, if_neg hk.not_gt]
  case wrong_count =>
    intro s T E f hT hlen
    rw [exec_calStage2_ok hT, if_neg hlen]

end Sys2Proof.Machine
end

section
/-! The registers an instruction leaves, as one function of the instruction, the byte popped and the registers before: the
invariants of R28 and the rules on who writes which register (R15 to R20) are facts about it. -/
namespace Sys2Proof.Machine

/-- The registers of a reader after the instruction `i` (R74 to R78, R81 to R86, R104); `b` is the byte a byte event pops. -/
def readerAfter (i : Instr) (b : Byte) (r : Reader) : Reader :=
  match i with
  | .wsSync | .wsSkip _ | .rhAccept _ | .rhReject _ | .rlEmit _ => byteRegisters i b r
  | .nobyte => r.tick
  | .req => if r.fatal then r.tick else { r.tick with armed := true }
  | .flush => if r.fatal then r.tick else { r.tick with st := .waitSync }
  | .cancel => if r.fatal then r.tick else { r.tick with armed := false, st := .waitSync }
  | .devlost => if r.fatal then r.tick else { r.tick with fatal := true, armed := false, st := .waitSync }
  | .reset => .reset
  | .code2v _ | .calStage1 _ _ | .calStage2 _ _ | .calEval _ _ | .samplePower _ _ => r

/-- Where `i` is a step and `b` the byte it pops: a byte event on a live request, as `st` and the byte name it
(R71, R73). -/
def StepsOn (i : Instr) (b : Byte) (r : Reader) : Prop :=
  isByteEvent i = true → r.fatal = false ∧ r.armed = true ∧ classify r.st b = i

/-- `readerAfter` is what the model's instructions do to their reader. -/
theorem exec_reader {i : Instr} {s t : State} (h : exec i s = .next t) :
    ∃ b, StepsOn i b s.cur.reader ∧ t.cur.reader = readerAfter i b s.cur.reader := by
  have heff := exec_effect h
  cases i
  case wsSync | wsSkip | rhAccept | rhReject | rlEmit =>
    obtain ⟨hf, ha, b, rest, lbl, -, hc, rfl⟩ := heff
    exact ⟨b, fun _ => ⟨hf, ha, hc⟩, by simp [readerAfter]⟩
  case nobyte =>
    obtain ⟨-, -, -, rfl⟩ := heff
    exact ⟨0, nofun, by simp [readerAfter]⟩
  case req =>
    obtain rfl : t = _ := heff
    refine ⟨0, nofun, ?_⟩
    cases hf : s.cur.reader.fatal <;> cases ha : s.cur.reader.armed <;> simp [readerAfter, Reader.tick, hf, ha]
  case flush =>
    obtain rfl : t = _ := heff
    refine ⟨0, nofun, ?_⟩
    cases hf : s.cur.reader.fatal <;> simp [readerAfter, hf]
  case cancel | devlost =>
    obtain ⟨lbl, rfl⟩ := heff
    refine ⟨0, nofun, ?_⟩
    cases hf : s.cur.reader.fatal <;> simp [readerAfter, hf]
  case reset =>
    obtain rfl : t = _ := heff
    exact ⟨0, nofun, by simp [readerAfter]⟩
  case code2v | calStage1 | calStage2 | calEval | samplePower =>
    obtain ⟨r, rfl⟩ := heff
    exact ⟨0, nofun, by simp [readerAfter]⟩

/-- R19, R85: the sticky flag after an instruction. -/
theorem readerAfter_fatal (i : Instr) (b : Byte) (r : Reader) :
    (readerAfter i b r).fatal = (decide (i ≠ .reset) && (r.fatal || decide (i = .devlost))) := by
  cases i
  case req | flush | cancel | devlost => cases hf : r.fatal <;> simp [readerAfter, hf]
  all_goals simp [readerAfter, byteRegisters, Reader.reset]

/-- Settles O23: read off `readerAfter_fatal`. -/
theorem onlyResetClearsFatal : Obligations.OnlyResetClearsFatal := by
  intro s t i h
  obtain ⟨b, -, ht⟩ := exec_reader h
  rw [ht, readerAfter_fatal]
  constructor
  · intro hf
    simp [hf]
  · intro hf
    by_cases hi : i = .devlost <;> simp [hf, hi]

/-- What an instruction leaves in `hi` where it finds `h`: only `RH_ACCEPT` and `RESET` write it (R15). -/
def hiAfter (i : Instr) (h : Nibble) : Nibble :=
  match i with
  | .rhAccept n => n
  | .reset => 0#4
  | _ => h

theorem readerAfter_hi (i : Instr) {b : Byte} {r : Reader} (h : StepsOn i b r) :
    (readerAfter i b r).hi = hiAfter i r.hi := by
  cases i
  case rhAccept n =>
    obtain ⟨-, -, hc⟩ := h rfl
    exact (classify_rhAccept hc).2
  case req | flush | cancel | devlost => simp only [readerAfter]; split <;> rfl
  all_goals rfl

/-- R16: `smp_data` after an instruction. -/
theorem readerAfter_smpData (i : Instr) {b : Byte} {r : Reader} (h : StepsOn i b r) :
    (readerAfter i b r).smpData = match i with
      | .rlEmit x => assembleSample r.hi x
      | .reset => 0#12
      | _ => r.smpData := by
  cases i
  case rlEmit x =>
    obtain ⟨-, -, hc⟩ := h rfl
    obtain ⟨-, rfl⟩ := classify_rlEmit hc
    rfl
  case req | flush | cancel | devlost => simp only [readerAfter]; split <;> rfl
  all_goals rfl

/-- R20: the strobe is 1 after `RL_EMIT` and 0 after every other event of the reader. -/
theorem readerAfter_smpValid {i : Instr} (hi : i.hasWord = true) (b : Byte) (r : Reader) :
    (readerAfter i b r).smpValid = true ↔ ∃ x, i = .rlEmit x := by
  cases i
  case rlEmit x => exact ⟨fun _ => ⟨x, rfl⟩, fun _ => rfl⟩
  case req | flush | cancel | devlost => simp only [readerAfter]; split <;> simp
  case code2v | calStage1 | calStage2 | calEval | samplePower => cases hi
  all_goals simp [readerAfter, byteRegisters, Reader.reset]

/-- Settles O24, register by register. -/
theorem dataRegistersHaveTheirWriters : Obligations.DataRegistersHaveTheirWriters := by
  intro s t i h
  obtain ⟨b, hon, ht⟩ := exec_reader h
  rw [ht, readerAfter_hi i hon, readerAfter_smpData i hon]
  refine ⟨?_, ?_, fun hi => readerAfter_smpValid hi b _⟩
  · cases i <;> simp [hiAfter]
  · cases i <;> simp

end Sys2Proof.Machine
end

section
/-! An instruction is local to the channel it addresses (R33): it reads that channel, the table and the parameters, and it
writes that channel and the label. -/
namespace Sys2Proof.Machine

/-- R33, R136, R24: the end of an instruction leaves everything but the addressed channel and the label. -/
theorem finish_sameElsewhere (s : State) (l : Lane) (lbl : Label) : SameElsewhere s (s.finish l lbl) := by
  simp [SameElsewhere]

/-- Settles O27: every instruction ends by `finish`. -/
theorem instructionsTouchOnlyTheirReader : Obligations.InstructionsTouchOnlyTheirReader := by
  intro s t i h
  obtain ⟨l, lbl, rfl⟩ := exec_finish h
  exact finish_sameElsewhere s l lbl

/-- Two results, from `s` and from `s'`, write the same channel and the same label, or refuse alike. -/
def SameOutcome (s s' : State) (x x' : Result) : Prop :=
  (∃ l lbl, x = .next (s.finish l lbl) ∧ x' = .next (s'.finish l lbl)) ∨ ∃ r, x = .refused r ∧ x' = .refused r

section
variable {s s' : State}

theorem SameOutcome.finish (l : Lane) (lbl : Label) :
    SameOutcome s s' (.next (s.finish l lbl)) (.next (s'.finish l lbl)) :=
  .inl ⟨l, lbl, rfl, rfl⟩

theorem SameOutcome.refused (r : Refusal) : SameOutcome s s' (.refused r) (.refused r) :=
  .inr ⟨r, rfl, rfl⟩

theorem SameOutcome.byteStep (hcur : s'.cur = s.cur) (i : Instr) (lbl : Label) (act : Byte → Reader → Reader) :
    SameOutcome s s' (byteStep i lbl act s) (byteStep i lbl act s') := by
  simp only [Machine.byteStep, hcur]
  split
  · exact .refused _
  split
  · exact .refused _
  split
  · exact .refused _
  split
  · exact .finish _ _
  · exact .refused _

theorem SameOutcome.controlStep (hcur : s'.cur = s.cur) (lbl : Label) (act : Lane → Lane) :
    SameOutcome s s' (controlStep lbl act s) (controlStep lbl act s') := by
  simp only [Machine.controlStep, hcur]
  split <;> exact .finish _ _

theorem SameOutcome.execNobyte (hcur : s'.cur = s.cur) : SameOutcome s s' (execNobyte s) (execNobyte s') := by
  simp only [Machine.execNobyte, hcur]
  split
  · exact .refused _
  split
  · exact .refused _
  split
  · exact .refused _
  · exact .finish _ _

theorem SameOutcome.datapathStep (hcur : s'.cur = s.cur) (r : CalResult) :
    SameOutcome s s' (datapathStep r s) (datapathStep r s') := by
  simp only [Machine.datapathStep, hcur]
  exact .finish _ _

theorem usableTable_congr (htable : s'.table = s.table) (hparams : s'.params = s.params) :
    usableTable s' = usableTable s := by
  simp only [usableTable, htable, hparams]

theorem SameOutcome.withTable (htable : s'.table = s.table) (hparams : s'.params = s.params) {k k' : CalTable → Result}
    (hk : ∀ T, SameOutcome s s' (k T) (k' T)) : SameOutcome s s' (withTable s k) (withTable s' k') := by
  simp only [Machine.withTable, usableTable_congr htable hparams]
  split
  · exact .refused _
  · exact hk _

/-- What an instruction does follows from the addressed channel, the table and the parameters. -/
theorem exec_sameOutcome (i : Instr) (hcur : s'.cur = s.cur) (htable : s'.table = s.table)
    (hparams : s'.params = s.params) : SameOutcome s s' (exec i s) (exec i s') := by
  cases i
  case wsSync | wsSkip | rhAccept | rhReject | rlEmit =>
    simp only [exec, execWsSync, execWsSkip, execRhAccept, execRhReject, execRlEmit]
    exact .byteStep hcur _ _ _
  case nobyte => exact .execNobyte hcur
  case req | flush | cancel | devlost =>
    simp only [exec, execReq, execFlush, execCancel, execDevlost, hcur]
    exact .controlStep hcur _ _
  case reset =>
    simp only [exec, execReset, hcur]
    exact .finish _ _
  case code2v | samplePower =>
    simp only [exec, execCode2v, execSamplePower, hparams]
    exact .withTable htable hparams fun T => .datapathStep hcur _
  case calEval => exact .withTable htable hparams fun T => .datapathStep hcur _
  case calStage1 | calStage2 =>
    refine .withTable htable hparams fun T => ?_
    split
    · exact .datapathStep hcur _
    · exact .refused _

end

@[simp] theorem State.setLane_other_cur (s : State) (l : Lane) : (s.setLane (otherChan s.sel) l).cur = s.cur := by
  rw [State.cur, State.setLane_sel, State.setLane_lane_ne _ _ _ _ (otherChan_ne' s.sel), State.cur]

/-- The addressed channel and the other one are written independently. -/
theorem State.finish_setLane_other (s : State) (l k : Lane) (lbl : Label) :
    (s.setLane (otherChan s.sel) l).finish k lbl = (s.finish k lbl).setLane (otherChan s.sel) l := by
  simp only [State.finish, State.setLane_sel]
  cases s.sel <;> rfl

/-- Settles O28: replacing the other channel changes nothing of what `exec_sameOutcome` says an instruction reads. -/
theorem readersAreIsolated : Obligations.ReadersAreIsolated := by
  intro s i l
  obtain ⟨k, lbl, h, h'⟩ | ⟨r, h, h'⟩ :=
    exec_sameOutcome i (s.setLane_other_cur l) (s.setLane_table _ l) (s.setLane_params _ l)
  · simp only [h, h', State.finish_setLane_other]
  · simp only [h, h']

end Sys2Proof.Machine
end

section
/-! `hi` outside `READ_LOW_BYTE` (R15, D15): an instruction run with another value of `hi` does the same and carries that
value along, until `RH_ACCEPT` or `RESET` overwrites it. -/
namespace Sys2Proof.Machine

/-- The registers with another `hi`. -/
def Reader.withHi (r : Reader) (h : Nibble) : Reader := { r with hi := h }

/-- The channel with another `hi`. -/
def Lane.withHi (l : Lane) (h : Nibble) : Lane := { l with reader := l.reader.withHi h }

/-- The machine with another `hi` in the addressed channel. -/
def State.withHi (s : State) (h : Nibble) : State := s.setLane s.sel (s.cur.withHi h)

@[simp] theorem State.withHi_cur (s : State) (h : Nibble) : (s.withHi h).cur = s.cur.withHi h := by
  simp [State.withHi, State.cur]

@[simp] theorem State.withHi_table (s : State) (h : Nibble) : (s.withHi h).table = s.table := by simp [State.withHi]

@[simp] theorem State.withHi_params (s : State) (h : Nibble) : (s.withHi h).params = s.params := by simp [State.withHi]

/-- A finished instruction overwrites the addressed channel, whatever `hi` was in it. -/
theorem State.withHi_finish (s : State) (h h' : Nibble) (l : Lane) (lbl : Label) :
    (s.withHi h).finish (l.withHi h') lbl = (s.finish l lbl).withHi h' := by
  rw [State.withHi, State.withHi, State.finish_cur, State.finish_sel, State.finish, State.finish, State.setLane_sel]
  cases s.sel <;> rfl

section
variable {s t : State} (h h' : Nibble)

/-- A byte event whose action takes `hi` from `h` to `h'`, on the byte that names the event. -/
theorem byteStep_withHi {i : Instr} {lbl : Label} {act : Byte → Reader → Reader}
    (hact : ∀ b r, classify s.cur.reader.st b = i → act b (r.withHi h) = (act b r).withHi h')
    (hnext : byteStep i lbl act s = .next t) : byteStep i lbl act (s.withHi h) = .next (t.withHi h') := by
  obtain ⟨hf, ha, b, rest, hq, hc, rfl⟩ := byteStep_next.1 hnext
  rw [byteStep_next, State.withHi_cur, ← State.withHi_finish]
  refine ⟨hf, ha, b, rest, hq, hc, ?_⟩
  rw [show (s.cur.withHi h).reader.tick = s.cur.reader.tick.withHi h from rfl, hact b _ hc]
  rfl

/-- A control event whose action carries `hi` along. -/
theorem controlStep_withHi {lbl : Label} {act : Lane → Lane} (hact : ∀ l, act (l.withHi h) = (act l).withHi h)
    (hnext : controlStep lbl act s = .next t) : controlStep lbl act (s.withHi h) = .next (t.withHi h) := by
  rw [controlStep_next] at hnext ⊢
  rw [State.withHi_cur, show (s.cur.withHi h).tick = s.cur.tick.withHi h from rfl, hact, hnext,
    show (s.cur.withHi h).reader.fatal = s.cur.reader.fatal from rfl]
  split <;> rw [State.withHi_finish]

theorem execNobyte_withHi (hnext : execNobyte s = .next t) : execNobyte (s.withHi h) = .next (t.withHi h) := by
  obtain ⟨hf, ha, hq, rfl⟩ := execNobyte_next.1 hnext
  rw [execNobyte_next, State.withHi_cur, ← State.withHi_finish]
  exact ⟨hf, ha, hq, rfl⟩

theorem datapathStep_withHi {r : CalResult} (hnext : datapathStep r s = .next t) :
    datapathStep r (s.withHi h) = .next (t.withHi h) := by
  rw [datapathStep_next] at hnext ⊢
  rw [hnext, State.withHi_cur, ← State.withHi_finish]
  rfl

theorem withTable_withHi {k k' : CalTable → Result} (hk : ∀ T, k T = .next t → k' T = .next (t.withHi h))
    (hnext : withTable s k = .next t) : withTable (s.withHi h) k' = .next (t.withHi h) := by
  obtain ⟨T, hT, hkT⟩ := withTable_next.1 hnext
  exact withTable_next.2 ⟨T, by rwa [usableTable_congr (s.withHi_table h) (s.withHi_params h)], hk T hkT⟩

/-- Only `RL_EMIT` reads `hi` (R15): outside its state every instruction carries another value along. -/
theorem exec_withHi {i : Instr} (hst : s.cur.reader.st ≠ .readLow) (hnext : exec i s = .next t) :
    exec i (s.withHi h) = .next (t.withHi (hiAfter i h)) := by
  cases i
  case wsSync | wsSkip | rhReject =>
    simp only [exec, execWsSync, execWsSkip, execRhReject] at hnext ⊢
    exact byteStep_withHi h _ (fun _ _ _ => rfl) hnext
  case rhAccept n =>
    simp only [exec, execRhAccept] at hnext ⊢
    refine byteStep_withHi h n (fun b r hc => ?_) hnext
    obtain ⟨-, rfl⟩ := classify_rhAccept hc
    rfl
  case rlEmit =>
    simp only [exec, execRlEmit] at hnext ⊢
    exact byteStep_withHi h _ (fun b r hc => absurd (classify_rlEmit hc).1 hst) hnext
  case nobyte => exact execNobyte_withHi h hnext
  case req =>
    simp only [exec, execReq] at hnext ⊢
    refine controlStep_withHi h (fun l => ?_) hnext
    cases ha : l.reader.armed <;> simp [Lane.withHi, Reader.withHi, ha]
  case flush | cancel | devlost =>
    simp only [exec, execFlush, execCancel, execDevlost, State.withHi_cur] at hnext ⊢
    exact controlStep_withHi h (fun _ => rfl) hnext
  case reset =>
    obtain rfl : t = _ := exec_effect hnext
    rw [exec, execReset, State.withHi_cur, ← State.withHi_finish]
    rfl
  case code2v | samplePower =>
    simp only [exec, execCode2v, execSamplePower, State.withHi_params] at hnext ⊢
    exact withTable_withHi h (fun T => datapathStep_withHi h) hnext
  case calEval => exact withTable_withHi h (fun T => datapathStep_withHi h) hnext
  case calStage1 | calStage2 =>
    refine withTable_withHi h (fun T hT => ?_) hnext
    split at hT
    · rw [if_pos ‹_›]
      exact datapathStep_withHi h hT
    · cases hT

end

/-- `READ_LOW_BYTE` is entered by `RH_ACCEPT` only (R76, R152). -/
theorem readerAfter_st_readLow {i : Instr} {b : Byte} {r : Reader} (hon : StepsOn i b r) (hr : r.st ≠ .readLow)
    (hst : (readerAfter i b r).st = .readLow) : ∃ n, i = .rhAccept n := by
  cases i
  case rhAccept n => exact ⟨n, rfl⟩
  case wsSkip | nobyte | code2v | calStage1 | calStage2 | calEval | samplePower => exact absurd hst hr
  case wsSync | rhReject | rlEmit | reset => cases hst
  case req =>
    simp only [readerAfter] at hst
    split at hst <;> exact absurd hst hr
  case flush | cancel | devlost =>
    simp only [readerAfter] at hst
    split at hst
    · exact absurd hst hr
    · cases hst

/-- Settles O30: the other value is carried along, and entering `READ_LOW_BYTE` overwrites it. -/
theorem hiIsUnobservableOutsideReadLow : Obligations.HiIsUnobservableOutsideReadLow := by
  intro s t i h hst hnext
  refine ⟨hiAfter i h, exec_withHi h hst hnext, fun ht => ?_⟩
  obtain ⟨b, hon, hr⟩ := exec_reader hnext
  rw [hr] at ht
  obtain ⟨n, rfl⟩ := readerAfter_st_readLow hon hst ht
  rw [hr, readerAfter_hi _ hon]
  rfl

end Sys2Proof.Machine
end

section
/-! What a step keeps (10_state.md R28, R34; 42_calibration.md R98, R111). A step is one instruction, a clock edge, an
arrival or a table load on the machine as it stands, and each of the four keeps the invariants. -/
namespace Sys2Proof.Machine

/-! ### The kinds of step -/

/-- The same block: the two states differ only in the model's own fields. -/
structure SameBlock (s s' : State) : Prop where
  lane : ∀ c, s'.lane c = s.lane c
  table : s'.table = s.table
  params : s'.params = s.params

/-- Every step is one of four kinds, taken on the same block with the model's lists moved on (R80, R89). -/
theorem step_kinds {s t : State} (h : step s = .next t) :
    ∃ s', SameBlock s s' ∧
      ((∃ i, exec i s' = .next t) ∨ (∃ p, edge p s' = .next t) ∨ (∃ c b, arrive c b s' = .next t) ∨
        ∃ T, loadTable T s' = .next t) := by
  have lists_moved (ps : List Task) (xs : List Input) : SameBlock s { s with pending := ps, inputs := xs } :=
    ⟨fun c => by cases c <;> rfl, rfl, rfl⟩
  have selected {s' : State} (hs : SameBlock s s') (c : Chan) : SameBlock s (s'.select c) :=
    ⟨fun d => (s'.select_lane c d).trans (hs.lane d), hs.table, hs.params⟩
  obtain ⟨x, ts, -, hx⟩ | ⟨x, xs, hp, -, hx⟩ | ⟨hp, hi, hx⟩ := step_cases h
  · obtain ⟨i, c, hi⟩ := runTask_next hx
    exact ⟨_, selected (lists_moved ts s.inputs) c, .inl ⟨i, hi⟩⟩
  · cases x with
    | present k =>
      obtain ⟨i, c, hi⟩ := runTask_next hx
      exact ⟨_, selected (lists_moved s.pending xs) c, .inl ⟨i, hi⟩⟩
    | cycle p => exact ⟨_, lists_moved s.pending xs, .inr (.inl ⟨p, hx⟩)⟩
    | arrive c b => exact ⟨_, lists_moved s.pending xs, .inr (.inr (.inl ⟨c, b, hx⟩))⟩
    | loadTable T => exact ⟨_, lists_moved s.pending xs, .inr (.inr (.inr ⟨T, hx⟩))⟩
  · exact ⟨s, lists_moved s.pending s.inputs, .inr (.inl ⟨_, hx⟩)⟩

/-! ### The invariants, channel by channel -/

theorem State.inv_iff (s : State) : s.Inv ↔ (∀ c, (s.lane c).Inv s.params) ∧ tableInv s.table := by
  constructor
  · rintro ⟨ha, hb, ht⟩
    refine ⟨fun c => ?_, ht⟩
    cases c
    · exact ha
    · exact hb
  · rintro ⟨hl, ht⟩
    exact ⟨hl .a, hl .b, ht⟩

theorem eq_otherChan {c d : Chan} (h : c ≠ d) : c = otherChan d := by
  cases c <;> cases d <;> simp at h ⊢

theorem SameBlock.inv {s s' : State} (h : SameBlock s s') (hs : s.Inv) : s'.Inv := by
  rw [State.inv_iff] at hs ⊢
  simpa only [h.lane, h.table, h.params] using hs

theorem queueOk_iff (p : Params) (q : List Byte) : queueOk p q = true ↔ ∀ d, p.rxqDepth = some d → q.length ≤ d := by
  unfold queueOk
  cases p.rxqDepth <;> simp

theorem queueFull_eq_false_iff (p : Params) (l : Lane) :
    queueFull p l = false ↔ ∀ d, p.rxqDepth = some d → l.rxq.length < d := by
  unfold queueFull
  cases p.rxqDepth <;> simp

/-! ### One instruction -/

/-- R28, invariants 2 to 4: an instruction keeps them. -/
theorem readerAfter_inv {i : Instr} {b : Byte} {r : Reader} (hon : StepsOn i b r) (hr : r.Inv) :
    (readerAfter i b r).Inv := by
  obtain ⟨hidle, hfatal, hvalid⟩ := hr
  have htick : r.tick.Inv := ⟨hidle, hfatal, nofun⟩
  cases i
  case wsSync | wsSkip | rhAccept | rhReject | rlEmit =>
    obtain ⟨hf, ha, -⟩ := hon rfl
    simp [readerAfter, byteRegisters, Reader.Inv, hf, ha]
  case nobyte => exact htick
  case req | flush | cancel | devlost =>
    simp only [readerAfter]
    split
    · exact htick
    · next hf => simp [Reader.Inv, hf]
  case reset => simp [readerAfter, Reader.reset, Reader.Inv]
  case code2v | calStage1 | calStage2 | calEval | samplePower => exact ⟨hidle, hfatal, hvalid⟩

/-- Beside the registers, an instruction takes bytes off its queue, and keeps what is in flight or drops it whole. -/
theorem exec_queues {i : Instr} {s t : State} (h : exec i s = .next t) :
    t.cur.rxq.length ≤ s.cur.rxq.length ∧ (t.cur.flight = s.cur.flight ∨ t.cur.flight = []) := by
  have heff := exec_effect h
  cases i
  case wsSync | wsSkip | rhAccept | rhReject | rlEmit =>
    obtain ⟨-, -, b, rest, lbl, hq, -, rfl⟩ := heff
    simp [hq]
  case nobyte =>
    obtain ⟨-, -, -, rfl⟩ := heff
    simp
  case req | flush =>
    obtain rfl : t = _ := heff
    rw [State.finish_cur]
    split <;> simp
  case cancel | devlost =>
    obtain ⟨lbl, rfl⟩ := heff
    rw [State.finish_cur]
    split <;> simp
  case reset =>
    obtain rfl : t = _ := heff
    simp
  case code2v | calStage1 | calStage2 | calEval | samplePower =>
    obtain ⟨r, rfl⟩ := heff
    simp

theorem exec_cur_inv {i : Instr} {s t : State} {p : Params} (h : exec i s = .next t) (hs : s.cur.Inv p) : t.cur.Inv p := by
  obtain ⟨hr, hf, hq⟩ := hs
  obtain ⟨b, hon, hreader⟩ := exec_reader h
  obtain ⟨hlen, hflight⟩ := exec_queues h
  refine ⟨hreader ▸ readerAfter_inv hon hr, ?_, ?_⟩
  · obtain h | h := hflight
    · rwa [h]
    · simp [h, flightInv]
  · rw [queueOk_iff] at hq ⊢
    exact fun d hd => hlen.trans (hq d hd)

theorem exec_inv {i : Instr} {s t : State} (h : exec i s = .next t) (hs : s.Inv) : t.Inv := by
  obtain ⟨hother, htable, hparams, hsel, -, -⟩ := instructionsTouchOnlyTheirReader s t i h
  rw [State.inv_iff] at hs ⊢
  rw [htable, hparams]
  refine ⟨fun c => ?_, hs.2⟩
  by_cases hc : c = s.sel
  · have hcur := exec_cur_inv h (hs.1 s.sel)
    rwa [State.cur, hsel, ← hc] at hcur
  · rw [eq_otherChan hc, hother]
    exact hs.1 _

/-! ### A clock edge -/

/-- R111: what enters waits longest, so the order of what is in flight is kept when an operation joins and all move on by
one edge. -/
theorem staying_entering_inv {latency : Nat} {q : List InFlight} (hq : flightInv latency q)
    (x : Option (Sample × CalNum)) : flightInv latency (staying (q ++ entering latency x)) := by
  obtain ⟨hord, hlt⟩ := hq
  have hbound : ∀ y ∈ q ++ entering latency x, y.wait ≤ latency := by
    intro y hy
    obtain hy | hy := List.mem_append.1 hy
    · exact (hlt y hy).le
    · cases x <;> simp_all [entering]
  have hjoined : (q ++ entering latency x).Pairwise (fun y z => y.wait < z.wait) := by
    cases x with
    | none => simpa [entering] using hord
    | some x => simpa [entering, List.pairwise_append, hord] using hlt
  generalize q ++ entering latency x = q' at hbound hjoined
  constructor
  · refine List.pairwise_map.2 ((hjoined.filter _).imp_of_mem ?_)
    intro y z hy _ hyz
    have : y.wait ≠ 0 := by simpa using (List.mem_filter.1 hy).2
    show y.wait - 1 < z.wait - 1
    omega
  · intro y hy
    obtain ⟨z, hz, rfl⟩ := List.mem_map.1 hy
    obtain ⟨hz, hwait⟩ := List.mem_filter.1 hz
    have := hbound z hz
    have : z.wait ≠ 0 := by simpa using hwait
    show z.wait - 1 < latency
    omega

theorem laneEdge_inv {prm : Params} {l : Lane} (hl : l.Inv prm) (p : ReaderPins) (cancel : Bool) :
    (laneEdge prm.calLatency p cancel l).Inv prm := by
  obtain ⟨hr, hf, hq⟩ := hl
  refine ⟨?_, staying_entering_inv hf _, hq⟩
  simp only [laneEdge]
  split
  · exact ⟨hr.1, hr.2.1, nofun⟩
  · exact hr

theorem edgeState_lane (p : Pins) (s : State) (c : Chan) :
    (edgeState p s).lane c = laneEdge s.params.calLatency (p.chan c) p.cancel (s.lane c) := by
  cases c <;> rfl

theorem edge_inv {p : Pins} {s t : State} (h : edge p s = .next t) (hs : s.Inv) : t.Inv := by
  obtain ⟨-, rfl⟩ := edge_next.1 h
  rw [State.inv_iff] at hs ⊢
  refine ⟨fun c => ?_, hs.2⟩
  rw [edgeState_lane]
  exact laneEdge_inv (hs.1 c) _ _

/-! ### An arrival and the table load -/

theorem arrive_lane {c d : Chan} {b : Byte} {s t : State} (h : arrive c b s = .next t) :
    t.lane d = if d = c then { s.lane c with rxq := (s.lane c).rxq ++ [b] } else s.lane d := by
  obtain ⟨-, rfl⟩ := arrive_next.1 h
  cases c <;> cases d <;> rfl

theorem arrive_inv {c : Chan} {b : Byte} {s t : State} (h : arrive c b s = .next t) (hs : s.Inv) : t.Inv := by
  obtain ⟨hroom, ht⟩ := arrive_next.1 h
  have htable : t.table = s.table := by simp [ht]
  have hparams : t.params = s.params := by simp [ht]
  rw [State.inv_iff] at hs ⊢
  rw [htable, hparams]
  refine ⟨fun d => ?_, hs.2⟩
  rw [arrive_lane h]
  split
  · obtain ⟨hr, hf, -⟩ := hs.1 c
    refine ⟨hr, hf, ?_⟩
    rw [queueFull_eq_false_iff] at hroom
    rw [queueOk_iff]
    intro n hn
    simpa using hroom n hn
  · exact hs.1 d

theorem sortKeys_perm (T : CalTable) : (sortKeys T).Perm T := by
  induction T with
  | nil => exact .refl _
  | cons k T ih => exact (insertKey_perm k _).trans (ih.cons k)

/-- R98, R99: the sort keeps the keys, and distinct keys in order are strictly ascending. -/
theorem tableWf_sortKeys_of_loadCheck {T : CalTable} (h : loadCheck T = true) : tableWf (sortKeys T) = true := by
  simp only [loadCheck, Bool.and_eq_true, decide_eq_true_eq, allDistinct_iff] at h
  obtain ⟨⟨hlen, hkeys⟩, hdistinct⟩ := h
  have hperm := sortKeys_perm T
  have hordered : (tabFreqs (sortKeys T)).Pairwise (· ≤ ·) := List.pairwise_map.2 (sortKeys_sorted T)
  have hdistinct' : (tabFreqs (sortKeys T)).Nodup := (hperm.map CalKey.freq).nodup_iff.2 hdistinct
  simp only [tableWf, Bool.and_eq_true, decide_eq_true_eq, ascending_iff, hperm.length_eq, hperm.all_eq]
  exact ⟨⟨hlen, hkeys⟩, (hordered.and hdistinct').imp fun h => lt_of_le_of_ne h.1 h.2⟩

theorem loadTable_inv {T : CalTable} {s t : State} (h : loadTable T s = .next t) (hs : s.Inv) : t.Inv := by
  obtain ⟨-, -, hcheck, rfl⟩ := loadTable_next.1 h
  obtain ⟨ha, hb, -⟩ := hs
  exact ⟨ha, hb, tableWf_sortKeys_of_loadCheck hcheck⟩

/-! ### Every step -/

/-- Settles O53, by the four kinds of step. -/
theorem everyStepKeepsTheInvariants : Obligations.EveryStepKeepsTheInvariants := by
  intro s t hs h
  obtain ⟨s', hblock, hkind⟩ := step_kinds h
  have hs' := hblock.inv hs
  obtain ⟨i, hi⟩ | ⟨p, hp⟩ | ⟨c, b, hb⟩ | ⟨T, hT⟩ := hkind
  · exact exec_inv hi hs'
  · exact edge_inv hp hs'
  · exact arrive_inv hb hs'
  · exact loadTable_inv hT hs'

/-- Settles O52: both channels are `Lane.reset`. -/
theorem resetStateMeetsTheInvariants : Obligations.ResetStateMeetsTheInvariants := by
  have hlane (c : Chan) : State.reset.lane c = Lane.reset := by cases c <;> rfl
  have hinv : Lane.reset.Inv Params.initial := by decide
  refine ⟨⟨hinv, hinv, rfl⟩, ⟨rfl, rfl⟩, rfl, fun c => ?_, fun c => ?_, rfl, rfl, rfl⟩
  · rw [hlane]
    rfl
  · rw [hlane]
    rfl

/-! ### Who clears `fatal` -/

/-- Only `RESET`, and on its own channel, clears a `fatal` (R19, R33). -/
theorem exec_clears_fatal {i : Instr} {s t : State} {c : Chan} (h : exec i s = .next t)
    (hf : (s.lane c).reader.fatal = true) (hf' : (t.lane c).reader.fatal = false) : i = .reset ∧ s.sel = c := by
  obtain ⟨hother, -, -, hsel, -, -⟩ := instructionsTouchOnlyTheirReader s t i h
  by_cases hc : c = s.sel
  · have hcur : t.lane c = t.cur := by rw [State.cur, hsel, hc]
    rw [hc] at hf
    rw [hcur] at hf'
    exact ⟨((onlyResetClearsFatal s t i h).1 hf).1 hf', hc.symm⟩
  · rw [eq_otherChan hc] at hf hf'
    rw [hother, hf] at hf'
    cases hf'

theorem edgeState_fatal (p : Pins) (s : State) (c : Chan) :
    ((edgeState p s).lane c).reader.fatal = (s.lane c).reader.fatal := by
  simp only [edgeState_lane, laneEdge]
  split <;> rfl

theorem arrive_reader {c d : Chan} {b : Byte} {s t : State} (h : arrive c b s = .next t) :
    (t.lane d).reader = (s.lane d).reader := by
  rw [arrive_lane h]
  split
  · next hd => rw [hd]
  · rfl

/-- Settles O54: of the four kinds of step only an instruction touches `fatal`, and only the load, into an empty place,
the table. -/
theorem onlyAResetStepLeavesFatal : Obligations.OnlyAResetStepLeavesFatal := by
  intro s t c h
  obtain ⟨s', hblock, hkind⟩ := step_kinds h
  rw [← hblock.lane c, ← hblock.table, ← hblock.params]
  obtain ⟨i, hi⟩ | ⟨p, hp⟩ | ⟨d, b, hb⟩ | ⟨T, hT⟩ := hkind
  case inl =>
    obtain ⟨-, htable, hparams, -⟩ := instructionsTouchOnlyTheirReader s' t i hi
    refine ⟨fun hf hf' => ?_, hparams, fun T hT => htable.trans hT⟩
    obtain ⟨rfl, hsel⟩ := exec_clears_fatal hi hf hf'
    exact ⟨s', hsel, rfl, hi⟩
  case inr.inl =>
    obtain ⟨-, rfl⟩ := edge_next.1 hp
    refine ⟨fun hf hf' => ?_, rfl, fun T hT => hT⟩
    rw [edgeState_fatal, hf] at hf'
    cases hf'
  case inr.inr.inl =>
    obtain ⟨-, ht⟩ := arrive_next.1 hb
    refine ⟨fun hf hf' => ?_, by simp [ht], fun T hT => by simpa [ht] using hT⟩
    rw [arrive_reader hb, hf] at hf'
    cases hf'
  case inr.inr.inr =>
    obtain ⟨-, hnone, -, rfl⟩ := loadTable_next.1 hT
    refine ⟨fun hf hf' => ?_, rfl, fun T hT => ?_⟩
    · have hlane : (s'.lane c).reader.fatal = false := by cases c <;> exact hf'
      rw [hf] at hlane
      cases hlane
    · rw [hnone] at hT
      cases hT

end Sys2Proof.Machine
end

section
/-! The shape of a reader (R29) is a function of its registers. -/
namespace Sys2Proof.Machine

/-- The shape the registers name (R29). -/
def Reader.shape (r : Reader) : Shape :=
  if r.fatal then .fatal
  else if r.armed then
    match r.st with
    | .waitSync => .waitSync
    | .readHigh => .readHigh
    | .readLow => .readLow r.hi
  else .idle

/-- R28 leaves no register values beside the five shapes. -/
theorem Reader.shape_describes {r : Reader} (hr : r.Inv) : r.shape.Describes r := by
  obtain ⟨hidle, -, -⟩ := hr
  cases hf : r.fatal
  case true => simp [Reader.shape, Shape.Describes, hf]
  case false =>
    cases ha : r.armed
    case false => simp [Reader.shape, Shape.Describes, hf, ha, hidle ha]
    case true => cases hst : r.st <;> simp [Reader.shape, Shape.Describes, hf, ha, hst]

theorem Shape.eq_shape_of_describes {x : Shape} {r : Reader} (h : x.Describes r) : x = r.shape := by
  cases x
  case fatal =>
    have hf : r.fatal = true := h
    simp [Reader.shape, hf]
  case idle =>
    obtain ⟨ha, hf, -⟩ := h
    simp [Reader.shape, hf, ha]
  case waitSync | readHigh =>
    obtain ⟨ha, hf, hst⟩ := h
    simp [Reader.shape, hf, ha, hst]
  case readLow n =>
    obtain ⟨ha, hf, hst, hhi⟩ := h
    simp [Reader.shape, hf, ha, hst, hhi]

/-- Settles O55: the shape is the one the registers name. -/
theorem readerHasExactlyOneShape : Obligations.ReaderHasExactlyOneShape :=
  fun r hr => ⟨r.shape, Reader.shape_describes hr, fun _ hy => Shape.eq_shape_of_describes hy⟩

end Sys2Proof.Machine
end

section
/-! The pins of one reader (R23, R80): what silences a reader silences its outputs with it. -/
namespace Sys2Proof.Machine

/-- R80: under `rst`, a standing `fatal` or `rx_lost` no byte is taken, nothing awaited and nothing flushed. -/
theorem mem_resolve_of_blocked {r : Reader} {p : ReaderPins} (h : (p.rst || r.fatal || p.rxLost) = true) {cancel : Bool}
    {offered : Option Byte} {e : Event} (he : e ∈ resolve r p cancel offered) : e = .reset ∨ e = .devlost := by
  unfold resolve at he
  split at he
  · exact .inl (List.mem_singleton.1 he)
  split at he
  · cases he
  split at he
  · exact .inr (List.mem_singleton.1 he)
  · simp_all

/-- R80: a live reader takes the events of the pins in turn. -/
theorem resolve_of_live {r : Reader} {p : ReaderPins} (h : (p.rst || r.fatal || p.rxLost) = false) (cancel : Bool)
    (offered : Option Byte) :
    resolve r p cancel offered =
      (if cancel then [.cancel] else []) ++ (if p.flush then [.flush] else []) ++
      (if p.req && !cancel then [.req] else []) ++
      (if r.rxReady p cancel then [offered.elim .nobyte .byte] else []) := by
  simp only [Bool.or_eq_false_iff] at h
  obtain ⟨⟨hrst, hfatal⟩, hlost⟩ := h
  cases offered <;> simp [resolve, Reader.rxReady, hrst, hfatal, hlost]

theorem rxReady_of_blocked {r : Reader} {p : ReaderPins} (h : (p.rst || r.fatal || p.rxLost) = true) (cancel : Bool) :
    r.rxReady p cancel = false ∧ r.rxFlush p = false := by
  simp only [Bool.or_eq_true] at h
  obtain (h | h) | h := h <;> simp [Reader.rxReady, Reader.rxFlush, h]

theorem rxFlush_of_live {r : Reader} {p : ReaderPins} (h : (p.rst || r.fatal || p.rxLost) = false) :
    r.rxFlush p = p.flush := by
  simp only [Bool.or_eq_false_iff] at h
  obtain ⟨⟨hrst, hfatal⟩, hlost⟩ := h
  simp [Reader.rxFlush, hrst, hfatal, hlost]

/-- Settles O47: on a blocked reader both sides fail, on a live one the event list shows its outputs. -/
theorem byteTakenExactlyOnHandshake : Obligations.ByteTakenExactlyOnHandshake := by
  intro r p cancel offered
  cases hlive : p.rst || r.fatal || p.rxLost
  case true =>
    obtain ⟨hready, hflush⟩ := rxReady_of_blocked hlive cancel
    have absent {e : Event} (hreset : e ≠ .reset) (hlost : e ≠ .devlost) : e ∉ resolve r p cancel offered :=
      fun he => (mem_resolve_of_blocked hlive he).elim hreset hlost
    refine ⟨fun b => ?_, ?_, ?_⟩
    · simp [hready, absent (e := .byte b)]
    · simp [hready, absent (e := .nobyte)]
    · simp [hflush, absent (e := .flush)]
  case false =>
    simp only [resolve_of_live hlive, rxFlush_of_live hlive, List.mem_append, List.mem_ite_nil_right,
      List.mem_singleton]
    refine ⟨fun b => ?_, ?_, ?_⟩
    · cases offered <;> simp [eq_comm (a := b)]
    · cases offered <;> simp
    · cases offered <;> simp

end Sys2Proof.Machine
end

section
/-! The byte queues (20_memory.md R34 to R37, R72, R153): an instruction takes bytes off its own queue at the old end, an
arrival adds one at the young end. -/
namespace Sys2Proof.Machine

/-! ### What an instruction does to its queue -/

/-- R35, R72, R73: a byte event pops the oldest byte, and that byte names it. -/
theorem exec_byteEvent_rxq {i : Instr} {s t : State} (hi : isByteEvent i = true) (h : exec i s = .next t) :
    ∃ b, s.cur.rxq = b :: t.cur.rxq ∧ classify s.cur.reader.st b = i := by
  have heff := exec_effect h
  cases i
  case wsSync | wsSkip | rhAccept | rhReject | rlEmit =>
    obtain ⟨-, -, b, rest, lbl, hq, hc, rfl⟩ := heff
    exact ⟨b, by simp [hq], hc⟩
  all_goals cases hi

/-- R37, R83, R87: `FLUSH` discards every byte, unless the reader is fatal and ignores it. -/
theorem exec_flush_rxq {s t : State} (h : exec .flush s = .next t) :
    t.cur.rxq = if s.cur.reader.fatal then s.cur.rxq else [] := by
  obtain rfl : t = _ := exec_effect h
  rw [State.finish_cur]
  split <;> simp

/-- R153: beside the byte events and `FLUSH`, no instruction touches the queue. -/
theorem exec_rxq_unchanged {i : Instr} {s t : State} (hi : isByteEvent i = false) (hflush : i ≠ .flush)
    (h : exec i s = .next t) : t.cur.rxq = s.cur.rxq := by
  have heff := exec_effect h
  cases i
  case wsSync | wsSkip | rhAccept | rhReject | rlEmit => cases hi
  case flush => exact absurd rfl hflush
  case nobyte =>
    obtain ⟨-, -, -, rfl⟩ := heff
    simp
  case req =>
    obtain rfl : t = _ := heff
    rw [State.finish_cur]
    split <;> simp
  case cancel | devlost =>
    obtain ⟨lbl, rfl⟩ := heff
    rw [State.finish_cur]
    split <;> simp
  case reset =>
    obtain rfl : t = _ := heff
    simp
  case code2v | calStage1 | calStage2 | calEval | samplePower =>
    obtain ⟨r, rfl⟩ := heff
    simp

/-- Settles O26: byte events, `FLUSH` and the rest, each by its own rule. -/
theorem onlyByteEventsAndFlushTouchTheQueue : Obligations.OnlyByteEventsAndFlushTouchTheQueue := by
  intro s t i h
  refine ⟨fun hi => exec_byteEvent_rxq hi h, fun hi => ?_⟩
  by_cases hflush : i = .flush
  · subst hflush
    rw [exec_flush_rxq h]
    cases s.cur.reader.fatal <;> simp
  · simp [exec_rxq_unchanged hi hflush h, hflush]

/-! ### An arrival -/

theorem queueFull_of_depth_le {p : Params} {l : Lane} {d : Nat} (hd : p.rxqDepth = some d) (hlen : d ≤ l.rxq.length) :
    queueFull p l = true := by
  simp [queueFull, hd, hlen]

/-- R34: at a full queue an arrival has no meaning. -/
theorem arrive_of_full {c : Chan} {b : Byte} {s : State} (h : queueFull s.params (s.lane c) = true) :
    arrive c b s = .refused .queueFull := by
  simp [arrive, h]

/-- R36: an arrival that finds room joins the young end of its queue, and leaves the rest of both channels alone. -/
theorem arrive_of_room {c : Chan} {b : Byte} {s : State} (h : queueFull s.params (s.lane c) = false) :
    ∃ t, arrive c b s = .next t ∧ t.lane c = { s.lane c with rxq := (s.lane c).rxq ++ [b] } ∧
      t.lane (otherChan c) = s.lane (otherChan c) ∧ t.table = s.table ∧ t.params = s.params ∧ t.inputs = s.inputs ∧
      t.pending = s.pending := by
  obtain ⟨t, hnext⟩ : ∃ t, arrive c b s = .next t := ⟨_, arrive_next.2 ⟨h, rfl⟩⟩
  obtain ⟨-, ht⟩ := arrive_next.1 hnext
  exact ⟨t, hnext, by simp [arrive_lane hnext], by simp [arrive_lane hnext], by simp [ht]⟩

/-- With nothing pending, an arrival at the head of the inputs is the step (R36, R89). -/
theorem step_arrive {c : Chan} {b : Byte} {s : State} {xs : List Input} (hp : s.pending = [])
    (hi : s.inputs = .arrive c b :: xs) : step s = arrive c b { s with inputs := xs } := by
  simp [step, hp, hi, runInput]

theorem State.lane_with_inputs (s : State) (xs : List Input) (c : Chan) :
    ({ s with inputs := xs } : State).lane c = s.lane c := by
  cases c <;> rfl

/-- Settles O45: the step is the arrival, and the queue's room decides which of its two rules applies. -/
theorem arrivalsQueueInOrder : Obligations.ArrivalsQueueInOrder := by
  intro s c b xs hp hi
  rw [step_arrive hp hi]
  -- the statement speaks of `s`, the arrival acts on `s` with its inputs moved on
  rw [← s.lane_with_inputs xs c, ← s.lane_with_inputs xs (otherChan c), ← hp]
  constructor
  · intro d hd hlen
    exact arrive_of_full (queueFull_of_depth_le hd hlen)
  · intro hroom
    exact arrive_of_room ((queueFull_eq_false_iff _ _).2 hroom)

end Sys2Proof.Machine
end

section
/-! The event word (30_encoding.md R56 to R70): nibbles and samples, the byte classes, what the fields of a word say, and how
the decoder goes by them. -/
namespace Sys2Proof
open Machine

/-! ### Nibbles and samples -/

/-- R56: the mask of a valid high byte leaves its upper nibble, above four zeros. -/
theorem and_highMask (b : Byte) : b &&& Config.highMask = b.extractLsb' 4 4 ++ 0#4 := by
  have hsplit : b = b.extractLsb' 4 4 ++ b.extractLsb' 0 4 :=
    (BitVec.extractLsb'_append_extractLsb' (w := 4) (len := 4) (x := b)).symm
  have hmask : Config.highMask = BitVec.allOnes 4 ++ 0#4 := by decide
  rw [hmask]
  nth_rw 1 [hsplit]
  rw [BitVec.and_append, BitVec.and_allOnes, BitVec.and_zero]

theorem isValidHigh_iff (b : Byte) : isValidHigh b = true ↔ b.toNat ≤ 0x0F := by
  have hzero : Config.highExpect = 0#4 ++ 0#4 := by decide
  rw [isValidHigh, decide_eq_true_eq, and_highMask, hzero, BitVec.append_left_inj, BitVec.toNat_eq,
    BitVec.extractLsb'_toNat, Nat.shiftRight_eq_div_pow, BitVec.toNat_ofNat]
  have hb := b.isLt
  omega

theorem lowNibble_toNat (b : Byte) : (lowNibble b).toNat = b.toNat % 16 := by
  simp [lowNibble]

theorem setWidth_lowNibble {b : Byte} (h : isValidHigh b = true) : (lowNibble b).setWidth 8 = b := by
  have hb := (isValidHigh_iff b).1 h
  apply BitVec.eq_of_toNat_eq
  rw [BitVec.toNat_setWidth, lowNibble_toNat]
  omega

theorem lowNibble_setWidth (n : Nibble) : lowNibble (n.setWidth 8) = n := by
  apply BitVec.eq_of_toNat_eq
  rw [lowNibble_toNat, BitVec.toNat_setWidth]
  omega

theorem isValidHigh_setWidth (n : Nibble) : isValidHigh (n.setWidth 8) = true := by
  rw [isValidHigh_iff, BitVec.toNat_setWidth]
  omega

/-- R57: bits 7:4 of the high byte do not reach the nibble. -/
theorem lowNibble_and (h : Byte) : lowNibble (h &&& 0x0F#8) = lowNibble h := by
  rw [lowNibble, BitVec.extractLsb'_and, show (0x0F#8).extractLsb' 0 4 = BitVec.allOnes 4 by decide, BitVec.and_allOnes]
  rfl

theorem assembleSample_toNat (hi : Nibble) (b : Byte) : (assembleSample hi b).toNat = 256 * hi.toNat + b.toNat := by
  rw [assembleSample, BitVec.toNat_append, ← Nat.shiftLeft_add_eq_or_of_lt b.isLt, Nat.shiftLeft_eq]
  omega

theorem assembleSample_eq_shiftLeft_or (hi : Nibble) (b : Byte) :
    assembleSample hi b = (hi.setWidth 12 <<< 8) ||| b.setWidth 12 := by
  rw [← BitVec.setWidth_append_eq_shiftLeft_setWidth_or]
  exact (BitVec.setWidth_eq _).symm

/-- Settles O7: the bits of the assembly, its number, and the nibble of a valid high byte. -/
theorem sampleAssemblyIsShiftOr : Obligations.SampleAssemblyIsShiftOr := by
  refine ⟨fun hi b => ⟨assembleSample_eq_shiftLeft_or hi b, assembleSample_toNat hi b, ?_⟩,
    fun h b => ⟨?_, fun hh => ?_⟩⟩
  · exact Nat.le_of_lt_succ (assembleSample hi b).isLt
  · rw [lowNibble_and]
  · have hle : h.toNat ≤ 0x0F := (isValidHigh_iff h).1 (decide_eq_true hh)
    rw [assembleSample_toNat, lowNibble_toNat, Nat.mod_eq_of_lt (by omega)]

/-- R58: the high byte of a frame is the sample's upper nibble, zero extended. -/
theorem frame_highByte_toNat (s : Sample) : ((s.extractLsb' 8 4).setWidth 8).toNat = s.toNat / 256 := by
  rw [BitVec.toNat_setWidth, BitVec.extractLsb'_toNat, Nat.shiftRight_eq_div_pow]
  omega

theorem frame_lowByte_toNat (s : Sample) : (s.extractLsb' 0 8).toNat = s.toNat % 256 := by
  simp

/-- R57, R58: the two halves of a sample assemble to it again. -/
theorem assembleSample_extract (s : Sample) : assembleSample (s.extractLsb' 8 4) (s.extractLsb' 0 8) = s :=
  BitVec.extractLsb'_append_extractLsb' (w := 4) (len := 8) (x := s)

/-- Settles O8: the high byte is a zero-extended nibble, so it is valid and gives that nibble back. -/
theorem frameIsTheInverseOfAssembly : Obligations.FrameIsTheInverseOfAssembly := by
  intro s
  refine ⟨rfl, _, _, rfl, ?valid, ?assembled, frame_highByte_toNat s, frame_lowByte_toNat s⟩
  case valid => exact of_decide_eq_true (isValidHigh_setWidth _)
  case assembled =>
    change assembleSample (lowNibble _) _ = s
    rw [lowNibble_setWidth, assembleSample_extract]

/-! ### The byte classes -/

theorem classify_waitSync_of_ne {b : Byte} (h : b ≠ Config.syncByte) : classify .waitSync b = .wsSkip b := by
  simp [classify, isSync, h]

theorem classify_readHigh_setWidth (n : Nibble) : classify .readHigh (n.setWidth 8) = .rhAccept n := by
  simp only [classify, isValidHigh_setWidth, lowNibble_setWidth, if_true]

theorem classify_readHigh_of_invalid {b : Byte} (h : isValidHigh b = false) : classify .readHigh b = .rhReject b := by
  simp [classify, h]

/-- R56: the five classes a byte can fall in, each with its bytes; what holds in all five holds of every byte. -/
theorem classify_elim {motive : ProtoState → Byte → Instr → Prop}
    (sync : motive .waitSync Config.syncByte .wsSync)
    (skip : ∀ b, b ≠ Config.syncByte → motive .waitSync b (.wsSkip b))
    (accept : ∀ n : Nibble, motive .readHigh (n.setWidth 8) (.rhAccept n))
    (reject : ∀ b, isValidHigh b = false → motive .readHigh b (.rhReject b))
    (emit : ∀ b, motive .readLow b (.rlEmit b)) (st : ProtoState) (b : Byte) : motive st b (classify st b) := by
  cases st with
  | waitSync =>
    by_cases hb : b = Config.syncByte
    · subst hb
      exact sync
    · rw [classify_waitSync_of_ne hb]
      exact skip b hb
  | readHigh =>
    cases hb : isValidHigh b with
    | true =>
      rw [← setWidth_lowNibble hb, classify_readHigh_setWidth]
      exact accept _
    | false =>
      rw [classify_readHigh_of_invalid hb]
      exact reject b hb
  | readLow => exact emit b

/-- Settles O5: the classes as conditions on the byte, and the counts by counting. -/
theorem byteClassesCoverEveryByteOnce : Obligations.ByteClassesCoverEveryByteOnce := by
  refine ⟨fun b => ?sync, fun b => ?high, fun b => rfl, ?counts⟩
  case sync =>
    split
    case isTrue hb => subst hb; rfl
    case isFalse hb => exact classify_waitSync_of_ne hb
  case high =>
    simp only [classify, isValidHigh_iff]
    rfl
  case counts => decide +kernel

/-- R56: every byte is a well-formed byte event in every state. -/
theorem classify_is_wellFormed_byteEvent (st : ProtoState) (b : Byte) :
    (classify st b).wellFormed = true ∧ (classify st b).hasWord = true ∧ isByteEvent (classify st b) = true :=
  classify_elim (motive := fun _ _ i => i.wellFormed = true ∧ i.hasWord = true ∧ isByteEvent i = true)
    (sync := ⟨rfl, rfl, rfl⟩)
    (skip := fun _ hb => ⟨decide_eq_true hb, rfl, rfl⟩)
    (accept := fun _ => ⟨rfl, rfl, rfl⟩)
    (reject := fun _ hb => ⟨decide_eq_true (of_decide_eq_false hb), rfl, rfl⟩)
    (emit := fun _ => ⟨rfl, rfl, rfl⟩) st b

/-- R63: the word of a byte event holds the state and the byte that name it, whatever state it is met in. -/
theorem encodeAt_classify (st' st : ProtoState) (b : Byte) :
    encodeAt st' (classify st b) = some (eventWord st (.byte b)) :=
  classify_elim (motive := fun st b i => encodeAt st' i = some (eventWord st (.byte b)))
    (sync := rfl) (skip := fun _ _ => rfl) (accept := fun _ => rfl) (reject := fun _ _ => rfl)
    (emit := fun _ => rfl) st b

/-! ### The fields of a word -/

@[simp] theorem kindField_packWord (k : BitVec 3) (c : BitVec 2) (b : Byte) : kindField (packWord k c b) = k :=
  (fields_packWord k c b).1

@[simp] theorem stField_packWord (k : BitVec 3) (c : BitVec 2) (b : Byte) : stField (packWord k c b) = c :=
  (fields_packWord k c b).2.1

@[simp] theorem wordByte_packWord (k : BitVec 3) (c : BitVec 2) (b : Byte) : wordByte (packWord k c b) = b :=
  (fields_packWord k c b).2.2

theorem packWord_fields (w : EventWord) : packWord (kindField w) (stField w) (wordByte w) = w := by
  have hhigh : kindField w ++ stField w = w.extractLsb' 8 5 := BitVec.extractLsb'_append_extractLsb'_eq_extractLsb' rfl
  rw [packWord, hhigh]
  exact BitVec.extractLsb'_append_extractLsb' (w := 5)

theorem packWord_and (k k' : BitVec 3) (c c' : BitVec 2) (b b' : Byte) :
    packWord k c b &&& packWord k' c' b' = packWord (k &&& k') (c &&& c') (b &&& b') := by
  have hbyte : packWord k c b &&& packWord k' c' b' = ((k ++ c) &&& (k' ++ c')) ++ (b &&& b') := BitVec.and_append
  rw [hbyte, BitVec.and_append, packWord]

@[simp] theorem kindField_eventWord (st : ProtoState) (e : Event) : kindField (eventWord st e) = e.kind :=
  kindField_packWord _ _ _

@[simp] theorem stField_eventWord (st : ProtoState) (e : Event) : stField (eventWord st e) = st.code :=
  stField_packWord _ _ _

@[simp] theorem wordByte_eventWord (st : ProtoState) (e : Event) : wordByte (eventWord st e) = e.byteField :=
  wordByte_packWord _ _ _

theorem ofCode_eq_some_iff (c : BitVec 2) (st : ProtoState) : ProtoState.ofCode c = some st ↔ c = st.code := by
  cases st <;> revert c <;> decide

theorem ofCode_eq_none_iff (c : BitVec 2) : ProtoState.ofCode c = none ↔ c = 0b11#2 := by
  revert c
  decide

/-! ### The decoder, form by form -/

/-- The instruction an event is in protocol state `st` (R62, R73). -/
def Event.instr (st : ProtoState) : Event → Instr
  | .byte b => classify st b
  | .nobyte => .nobyte
  | .req => .req
  | .flush => .flush
  | .cancel => .cancel
  | .devlost => .devlost
  | .reset => .reset

/-- The four forms of a word (R61, R64, R67): in a control event's word `st` and the byte take no part. -/
inductive WordForm (w : EventWord) : Prop where
  | reserved (h : kindField w = 0b111#3)
  | noState (hk : kindField w = 0b000#3) (hs : stField w = 0b11#2)
  | byte (st : ProtoState) (b : Byte) (h : w = eventWord st (.byte b))
  | control (e : Event) (he : e.kind ≠ 0b000#3) (h : kindField w = e.kind)

theorem kind_ne_reserved (e : Event) : e.kind ≠ 0b111#3 := by
  cases e <;> simp [Event.kind]

theorem code_ne_three (st : ProtoState) : st.code ≠ 0b11#2 := by
  cases st <;> decide

theorem kind_cases (k : BitVec 3) : k = 0b111#3 ∨ ∃ e : Event, e.kind = k := by
  have hk : k = 0b000#3 ∨ k = 0b001#3 ∨ k = 0b010#3 ∨ k = 0b011#3 ∨ k = 0b100#3 ∨ k = 0b101#3 ∨ k = 0b110#3
      ∨ k = 0b111#3 := by
    revert k
    decide
  obtain rfl | rfl | rfl | rfl | rfl | rfl | rfl | rfl := hk
  · exact .inr ⟨.byte 0, rfl⟩
  · exact .inr ⟨.nobyte, rfl⟩
  · exact .inr ⟨.req, rfl⟩
  · exact .inr ⟨.flush, rfl⟩
  · exact .inr ⟨.cancel, rfl⟩
  · exact .inr ⟨.devlost, rfl⟩
  · exact .inr ⟨.reset, rfl⟩
  · exact .inl rfl

theorem wordForm (w : EventWord) : WordForm w := by
  obtain hk | ⟨e, hk⟩ := kind_cases (kindField w)
  · exact .reserved hk
  by_cases he : e.kind = 0b000#3
  · have hw : kindField w = 0b000#3 := hk.symm.trans he
    cases hs : ProtoState.ofCode (stField w) with
    | none => exact .noState hw ((ofCode_eq_none_iff _).1 hs)
    | some st =>
      refine .byte st (wordByte w) ?_
      rw [eventWord, ← (ofCode_eq_some_iff _ _).1 hs, Event.kind, ← hw]
      exact (packWord_fields w).symm
  · exact .control e he hk.symm

theorem decode_of_reserved {w : EventWord} (h : kindField w = 0b111#3) : decode w = .error .reservedKind := by
  simp [decode, h]

theorem decode_of_noState {w : EventWord} (hk : kindField w = 0b000#3) (hs : stField w = 0b11#2) :
    decode w = .error .noSuchState := by
  simp [decode, hk, (ofCode_eq_none_iff _).2 hs]

theorem decode_byte (st : ProtoState) (b : Byte) : decode (eventWord st (.byte b)) = .ok (classify st b) := by
  simp [decode, Event.kind, Event.byteField, (ofCode_eq_some_iff _ st).2 rfl]

/-- R61, R67: a control event is decoded from its kind alone. -/
theorem decode_of_control {w : EventWord} {e : Event} (he : e.kind ≠ 0b000#3) (h : kindField w = e.kind)
    (st : ProtoState) : decode w = .ok (e.instr st) := by
  cases e
  case byte => exact absurd rfl he
  all_goals simp [decode, h, Event.kind, Event.instr]

/-- R61, R62, R70, R73: the word of an event decodes to that event's instruction. -/
theorem decode_eventWord (st : ProtoState) (e : Event) : decode (eventWord st e) = .ok (e.instr st) := by
  by_cases he : e.kind = 0b000#3
  · cases e
    case byte b => exact decode_byte st b
    all_goals exact absurd he (by decide)
  · exact decode_of_control he (kindField_eventWord _ _) st

/-- Settles O6: `Event.instr` is the instruction the statement names. -/
theorem eventWordDecodesInItsState : Obligations.EventWordDecodesInItsState := by
  intro st e
  rw [decode_eventWord]
  cases e <;> rfl

/-- R63, R70: whatever the encoder gives is the word of an event that is the instruction. -/
theorem encodeAt_eq_eventWord {st : ProtoState} {i : Instr} {w : EventWord} (hi : i.wellFormed = true)
    (h : encodeAt st i = some w) : ∃ st' e, w = eventWord st' e ∧ e.instr st' = i := by
  cases i <;> cases h
  case wsSync => exact ⟨.waitSync, .byte Config.syncByte, rfl, rfl⟩
  case wsSkip b => exact ⟨.waitSync, .byte b, rfl, classify_waitSync_of_ne (of_decide_eq_true hi)⟩
  case rhAccept n => exact ⟨.readHigh, .byte (n.setWidth 8), rfl, classify_readHigh_setWidth n⟩
  case rhReject b =>
    exact ⟨.readHigh, .byte b, rfl, classify_readHigh_of_invalid (decide_eq_false (of_decide_eq_true hi))⟩
  case rlEmit b => exact ⟨.readLow, .byte b, rfl, rfl⟩
  case nobyte => exact ⟨st, .nobyte, rfl, rfl⟩
  case req => exact ⟨st, .req, rfl, rfl⟩
  case flush => exact ⟨st, .flush, rfl, rfl⟩
  case cancel => exact ⟨st, .cancel, rfl, rfl⟩
  case devlost => exact ⟨st, .devlost, rfl, rfl⟩
  case reset => exact ⟨st, .reset, rfl, rfl⟩

/-- Settles O2: the encoder gives words of events, and the decoder reads those back. -/
theorem decodeInvertsEncode : Obligations.DecodeInvertsEncode := by
  intro st i hi
  refine ⟨by cases i <;> rfl, fun w hw => ?_⟩
  obtain ⟨st', e, rfl, rfl⟩ := encodeAt_eq_eventWord hi hw
  exact decode_eventWord st' e

/-- R63: the fixed bits of a well-formed instruction's row, for all instructions at once. -/
theorem rowPattern (i : Instr) : Laws.RowPattern.Statement i := by
  cases i with
  | wsSync => exact Laws.RowPattern.wsSync
  | wsSkip b => exact Laws.RowPattern.wsSkip b
  | rhAccept n => exact Laws.RowPattern.rhAccept n
  | rhReject b => exact Laws.RowPattern.rhReject b
  | rlEmit b => exact Laws.RowPattern.rlEmit b
  | nobyte => exact Laws.RowPattern.nobyte
  | req => exact Laws.RowPattern.req
  | flush => exact Laws.RowPattern.flush
  | cancel => exact Laws.RowPattern.cancel
  | devlost => exact Laws.RowPattern.devlost
  | reset => exact Laws.RowPattern.reset
  | code2v code => exact Laws.RowPattern.code2v code
  | calStage1 k v => exact Laws.RowPattern.calStage1 k v
  | calStage2 E f => exact Laws.RowPattern.calStage2 E f
  | calEval v f => exact Laws.RowPattern.calEval v f
  | samplePower code f => exact Laws.RowPattern.samplePower code f

/-- R63: in a control event's row only the kind is fixed. -/
theorem control_rowPattern {w : EventWord} {e : Event} (he : e.kind ≠ 0b000#3) (h : kindField w = e.kind)
    (st : ProtoState) : w &&& rowMask (e.instr st) = rowMatch (e.instr st) := by
  have hmask : rowMask (e.instr st) = packWord (BitVec.allOnes 3) 0#2 0#8 := by
    cases e
    case byte => exact absurd rfl he
    all_goals rfl
  have hmatch : rowMatch (e.instr st) = packWord e.kind 0#2 0#8 := by
    cases e
    case byte => exact absurd rfl he
    all_goals rfl
  rw [hmask, hmatch, ← h]
  nth_rw 1 [← packWord_fields w]
  rw [packWord_and, BitVec.and_allOnes, BitVec.and_zero, BitVec.and_zero]

theorem control_is_wellFormed {e : Event} (he : e.kind ≠ 0b000#3) (st : ProtoState) :
    (e.instr st).wellFormed = true ∧ (e.instr st).hasWord = true ∧ isByteEvent (e.instr st) = false := by
  cases e
  case byte => exact absurd rfl he
  all_goals exact ⟨rfl, rfl, rfl⟩

/-- Settles O3: a byte event's word is the encoder's own, so it has its row's bits; a control event's word has them
by its kind. -/
theorem decodedWordsMatchTheirRow : Obligations.DecodedWordsMatchTheirRow := by
  intro w i h
  cases wordForm w with
  | reserved hk => rw [decode_of_reserved hk] at h; cases h
  | noState hk hs => rw [decode_of_noState hk hs] at h; cases h
  | byte st b hw =>
    subst hw
    rw [decode_byte] at h
    cases h
    obtain ⟨hwf, hword, -⟩ := classify_is_wellFormed_byteEvent st b
    exact ⟨hwf, hword, rowPattern _ hwf .waitSync _ (encodeAt_classify _ st b), fun _ => encodeAt_classify _ st b⟩
  | control e he hk =>
    rw [decode_of_control he hk .waitSync] at h
    cases h
    obtain ⟨hwf, hword, hbyte⟩ := control_is_wellFormed he .waitSync
    exact ⟨hwf, hword, control_rowPattern he hk .waitSync, fun h => absurd (hbyte.symm.trans h) (by decide)⟩

/-- Settles O1: fourteen fixed words, decoded one by one. -/
theorem tableWordsDecodeToTheirEvents : Obligations.TableWordsDecodeToTheirEvents := by
  unfold Obligations.TableWordsDecodeToTheirEvents
  decide

/-- Settles O4: each form of word has its own answer and its own fields. -/
theorem decoderRejectsExactlyTheReservedWords : Obligations.DecoderRejectsExactlyTheReservedWords := by
  refine ⟨fun w => ?reserved, fun w => ?noState⟩
  case reserved =>
    change _ ↔ kindField w = _
    cases wordForm w with
    | reserved hk => simp [decode_of_reserved hk, hk]
    | noState hk hs => simp [decode_of_noState hk hs, hk]
    | byte st b hw => rw [hw, decode_byte]; simp [Event.kind]
    | control e he hk => rw [decode_of_control he hk .waitSync, hk]; simp [kind_ne_reserved]
  case noState =>
    change _ ↔ kindField w = _ ∧ stField w = _
    cases wordForm w with
    | reserved hk => simp [decode_of_reserved hk, hk]
    | noState hk hs => simp [decode_of_noState hk hs, hk, hs]
    | byte st b hw => rw [hw, decode_byte]; simp [code_ne_three]
    | control e he hk => rw [decode_of_control he hk .waitSync, hk]; simp [he]

end Sys2Proof
end

section
/-! The task a step takes up (41_control_events.md R80, R89), and the decoded instruction it runs. -/
namespace Sys2Proof.Machine

theorem runWord_ok {c : Chan} {w : EventWord} {i : Instr} (h : decode w = .ok i) (s : State) :
    runWord c w s = exec i (s.select c) := by
  simp [runWord, h]

theorem runWord_error {c : Chan} {w : EventWord} {r : DecodeReject} (h : decode w = .error r) (s : State) :
    runWord c w s = .refused (.undecodable r) := by
  simp [runWord, h]

theorem State.lane_with_pending (s : State) (ts : List Task) (c : Chan) :
    ({ s with pending := ts } : State).lane c = s.lane c := by
  cases c <;> rfl

/-- R80, R89: whichever list a task heads, the step runs it with that list moved on. -/
theorem step_task {s s' : State} {k : Task} {ts : List Task} {xs : List Input}
    (h : (s.pending = k :: ts ∧ s' = { s with pending := ts }) ∨
      (s.pending = [] ∧ s.inputs = .present k :: xs ∧ s' = { s with inputs := xs })) :
    step s = runTask k s' ∧ ∀ c, s'.lane c = s.lane c := by
  obtain ⟨hp, rfl⟩ | ⟨hp, hi, rfl⟩ := h
  · exact ⟨by simp [step, hp], s.lane_with_pending ts⟩
  · exact ⟨by simp [step, hp, hi, runInput], s.lane_with_inputs xs⟩

/-- Settles O44: the step runs the task, and the task runs what its word decodes to. -/
theorem stepRunsTheDecodedInstruction : Obligations.StepRunsTheDecodedInstruction := by
  intro s s' k ts xs h
  obtain ⟨hstep, hlane⟩ := step_task h
  rw [hstep]
  refine ⟨?event, ?word, ?undecodable, ?datapath⟩
  case event =>
    rintro c e i rfl hdec
    rw [← hlane c] at hdec
    exact runWord_ok hdec s'
  case word =>
    rintro c w i rfl hdec
    exact runWord_ok hdec s'
  case undecodable =>
    rintro c w r rfl hdec
    exact runWord_error hdec s'
  case datapath =>
    rintro c op rfl
    rfl

end Sys2Proof.Machine
end

section
/-! The five byte events (40_byte_events.md R71 to R78): what the shared shape does where it is enabled and where it is
not, and each event as one use of it. -/
namespace Sys2Proof.Machine

/-! ### Where a byte event is enabled -/

/-- The label of a byte event (R74 to R78). -/
def byteLabel : Instr → Label
  | .rhReject b => .syncFault b
  | .rlEmit _ => .emit
  | _ => .nothing

theorem byteRegisters_tick (i : Instr) (b : Byte) (r : Reader) : byteRegisters i b r.tick = byteRegisters i b r := by
  cases i <;> rfl

/-- Every byte event is the shared shape, with the label and the registers its rule writes (R71 to R78). -/
theorem exec_eq_byteStep {i : Instr} (hi : isByteEvent i = true) (s : State) :
    exec i s = byteStep i (byteLabel i) (byteRegisters i) s := by
  cases i
  case wsSync | wsSkip | rhAccept | rhReject | rlEmit => rfl
  all_goals cases hi

/-- R71 to R73: on a live request the event that `st` and the oldest byte name completes: it pops that byte, writes its
registers, and leaves everything but the addressed channel and the label. -/
theorem exec_byteEvent_completes {i : Instr} {s : State} {b : Byte} {rest : List Byte}
    (harmed : s.cur.reader.armed = true) (hfatal : s.cur.reader.fatal = false) (hq : s.cur.rxq = b :: rest)
    (hclass : classify s.cur.reader.st b = i) :
    ∃ t, exec i s = .next t ∧ t.label = some (byteLabel i) ∧ SameElsewhere s t ∧
      t.cur = { s.cur with reader := byteRegisters i b s.cur.reader, rxq := rest } := by
  obtain ⟨-, -, hi⟩ := classify_is_wellFormed_byteEvent s.cur.reader.st b
  rw [hclass] at hi
  rw [exec_eq_byteStep hi, ← byteRegisters_tick]
  exact ⟨_, byteStep_next.2 ⟨hfatal, harmed, b, rest, hq, hclass, rfl⟩, s.finish_label _ _,
    finish_sameElsewhere s _ _, s.finish_cur _ _⟩

/-- Settles O9: the byte `0xFF` is the sync class. -/
theorem wsSyncMovesToReadHigh : Obligations.WsSyncMovesToReadHigh := by
  refine ⟨rfl, fun s rest harmed hfatal hst hq => exec_byteEvent_completes harmed hfatal hq ?_⟩
  rw [hst]
  rfl

/-- Settles O10: every byte but `0xFF` is skipped. -/
theorem wsSkipDiscardsTheByte : Obligations.WsSkipDiscardsTheByte := by
  intro b hb
  refine ⟨rfl, fun s rest harmed hfatal hst hq => exec_byteEvent_completes harmed hfatal hq ?_⟩
  rw [hst, classify_waitSync_of_ne hb]

theorem zero_append_nibble (n : Nibble) : 0b0000#4 ++ n = n.setWidth 8 :=
  (BitVec.setWidth_eq_append (by decide)).symm

/-- R63: the word of `RH_ACCEPT` is nine fixed bits above the nibble. -/
theorem encode_rhAccept (n : Nibble) : encode (.rhAccept n) = some (0b000010000#9 ++ n) := by
  have hword : (0b00001#5 : BitVec 5) ++ (0b0000#4 ++ n) = 0b000010000#9 ++ n := BitVec.append_assoc'
  rw [← hword, zero_append_nibble]
  rfl

/-- Settles O11: a byte with a zero upper nibble is a valid high byte, and its lower nibble goes to `hi`. -/
theorem rhAcceptCapturesTheNibble : Obligations.RhAcceptCapturesTheNibble := by
  intro n
  refine ⟨encode_rhAccept n, fun s rest harmed hfatal hst hq => ?_⟩
  rw [zero_append_nibble] at hq
  have hclass : classify s.cur.reader.st (n.setWidth 8) = .rhAccept n := by rw [hst, classify_readHigh_setWidth]
  obtain ⟨t, hnext, hlabel, hsame, hcur⟩ := exec_byteEvent_completes harmed hfatal hq hclass
  simp only [byteRegisters, lowNibble_setWidth] at hcur
  exact ⟨t, hnext, hlabel, hsame, hcur⟩

/-- R56: a high byte is invalid exactly where its upper nibble is not zero. -/
theorem isValidHigh_eq_false_iff (b : Byte) : isValidHigh b = false ↔ b.extractLsb' 4 4 ≠ 0x0#4 := by
  have hzero : Config.highExpect = 0#4 ++ 0#4 := by decide
  rw [isValidHigh, decide_eq_false_iff_not, and_highMask, hzero, BitVec.append_left_inj]

/-- Settles O12: the invalid high bytes are rejected, `0xFF` like any other. -/
theorem rhRejectReturnsToWaitSync : Obligations.RhRejectReturnsToWaitSync := by
  intro b hb
  refine ⟨rfl, fun s rest harmed hfatal hst hq => exec_byteEvent_completes harmed hfatal hq ?_⟩
  rw [hst, classify_readHigh_of_invalid ((isValidHigh_eq_false_iff b).2 hb)]

/-- Settles O13: in `READ_LOW_BYTE` every byte is a low byte. -/
theorem rlEmitEmitsTheSample : Obligations.RlEmitEmitsTheSample := by
  intro b s rest harmed hfatal hst hq
  refine exec_byteEvent_completes harmed hfatal hq ?_
  rw [hst]
  rfl

/-! ### Where a byte event and `NOBYTE` are no step -/

section
variable {i : Instr} {s : State}

theorem exec_of_fatal (hi : isByteEvent i = true ∨ i = .nobyte) (hfatal : s.cur.reader.fatal = true) :
    exec i s = .refused .readerFatal := by
  obtain hi | rfl := hi
  · rw [exec_eq_byteStep hi, byteStep, if_pos hfatal]
  · rw [exec, execNobyte, if_pos hfatal]

theorem exec_of_idle (hi : isByteEvent i = true ∨ i = .nobyte) (hfatal : s.cur.reader.fatal = false)
    (harmed : s.cur.reader.armed = false) : exec i s = .refused .readerIdle := by
  obtain hi | rfl := hi
  · simp [exec_eq_byteStep hi, byteStep, hfatal, harmed]
  · simp [exec, execNobyte, hfatal, harmed]

/-- R35, R71: on a live request a byte event pops from the queue first, and an empty one has nothing to pop. -/
theorem exec_byteEvent_of_empty (hi : isByteEvent i = true) (hfatal : s.cur.reader.fatal = false)
    (harmed : s.cur.reader.armed = true) (hq : s.cur.rxq = []) : exec i s = .refused .queueEmpty := by
  simp [exec_eq_byteStep hi, byteStep, hfatal, harmed, Lane.rxPop_nil hq]

/-- R73: `st` and the oldest byte name one event, and no other is a step. -/
theorem exec_byteEvent_of_other {b : Byte} {rest : List Byte} (hi : isByteEvent i = true)
    (hfatal : s.cur.reader.fatal = false) (harmed : s.cur.reader.armed = true) (hq : s.cur.rxq = b :: rest)
    (hclass : classify s.cur.reader.st b ≠ i) : exec i s = .refused .otherEvent := by
  simp [exec_eq_byteStep hi, byteStep, hfatal, harmed, Lane.rxPop_cons hq, hclass]

theorem exec_nobyte_of_nonempty {b : Byte} {rest : List Byte} (hfatal : s.cur.reader.fatal = false)
    (harmed : s.cur.reader.armed = true) (hq : s.cur.rxq = b :: rest) : exec .nobyte s = .refused .queueNotEmpty := by
  simp [exec, execNobyte, Lane.rxValid, hfatal, harmed, hq]

end

/-- Settles O21, refusal by refusal. -/
theorem noStepOutsideTheEnablingCondition : Obligations.NoStepOutsideTheEnablingCondition :=
  ⟨fun _ _ => exec_of_fatal, fun _ _ => exec_of_idle, fun _ _ => exec_byteEvent_of_empty,
    fun _ _ _ _ => exec_byteEvent_of_other, fun _ _ _ => exec_nobyte_of_nonempty⟩

end Sys2Proof.Machine
end

section
/-! The six control events and the byte events as one function of the channel (40_byte_events.md R74 to R78,
41_control_events.md R81 to R87): where an event is a step, what it leaves of its channel, and its label. -/
namespace Sys2Proof.Machine

/-- The channel an event leaves (R72, R79, R81 to R87): its registers are `readerAfter` of the event's instruction. -/
def Lane.after (l : Lane) (e : Event) : Lane :=
  { reader := readerAfter (e.instr l.reader.st) e.byteField l.reader
    rxq :=
      match e with
      | .byte _ => l.rxq.tail
      | .flush => if l.reader.fatal then l.rxq else []
      | _ => l.rxq
    flight := if e = .reset then [] else l.flight
    calRes := if e = .reset then none else l.calRes }

/-- Where an event is a step: a byte event on its byte, `NOBYTE` on none, the others everywhere (R71, R81, R87). -/
def Lane.Enables (l : Lane) (e : Event) : Prop :=
  match e with
  | .byte b => l.reader.fatal = false ∧ l.reader.armed = true ∧ l.rxq.head? = some b
  | .nobyte => l.reader.fatal = false ∧ l.reader.armed = true ∧ l.rxq = []
  | _ => True

/-- The label of an event (R114, R116 to R119); an event a fatal reader ignores reports nothing (R87). -/
def Lane.labelOf (l : Lane) (e : Event) : Label :=
  match e with
  | .byte b => byteLabel (classify l.reader.st b)
  | .nobyte => .transientIo
  | .cancel => if l.reader.fatal then .nothing else if l.reader.armed then .cancelled else .nothing
  | .devlost => if l.reader.fatal then .nothing else .deviceLost
  | _ => .nothing

/-- A byte event pops the byte that names it. -/
theorem Lane.after_byte (l : Lane) {b : Byte} {rest : List Byte} (h : l.rxq = b :: rest) :
    l.after (.byte b) =
      { l with reader := byteRegisters (classify l.reader.st b) b l.reader, rxq := rest } := by
  have hreader : readerAfter (classify l.reader.st b) b l.reader = byteRegisters (classify l.reader.st b) b l.reader :=
    classify_elim (motive := fun _ b i => readerAfter i b l.reader = byteRegisters i b l.reader)
      rfl (fun _ _ => rfl) (fun _ => rfl) (fun _ _ => rfl) (fun _ => rfl) _ b
  simp [Lane.after, Event.instr, Event.byteField, hreader, h]

@[simp] theorem Lane.after_nobyte (l : Lane) : l.after .nobyte = l.tick := rfl

/-- R87: a fatal reader ignores these four. -/
theorem Lane.after_of_fatal {l : Lane} (h : l.reader.fatal = true) {e : Event}
    (he : e = .req ∨ e = .flush ∨ e = .cancel ∨ e = .devlost) : l.after e = l.tick := by
  obtain rfl | rfl | rfl | rfl := he <;> simp [Lane.after, Event.instr, readerAfter, Lane.tick, h]

theorem Lane.after_req {l : Lane} (h : l.reader.fatal = false) :
    l.after .req = { l with reader := { l.reader.tick with armed := true } } := by
  simp [Lane.after, Event.instr, readerAfter, h]

theorem Lane.after_flush {l : Lane} (h : l.reader.fatal = false) :
    l.after .flush = { l with reader := { l.reader.tick with st := .waitSync }, rxq := [] } := by
  simp [Lane.after, Event.instr, readerAfter, h]

theorem Lane.after_cancel {l : Lane} (h : l.reader.fatal = false) :
    l.after .cancel = { l with reader := { l.reader.tick with armed := false, st := .waitSync } } := by
  simp [Lane.after, Event.instr, readerAfter, h]

theorem Lane.after_devlost {l : Lane} (h : l.reader.fatal = false) :
    l.after .devlost = { l with reader := { l.reader.tick with fatal := true, armed := false, st := .waitSync } } := by
  simp [Lane.after, Event.instr, readerAfter, h]

@[simp] theorem Lane.after_reset (l : Lane) :
    l.after .reset = { reader := .reset, rxq := l.rxq, flight := [], calRes := none } := rfl

/-- R71 to R73, R79, R81 to R87: an enabled event completes, with the channel and the label of its rule. -/
theorem exec_event {e : Event} {s : State} (h : s.cur.Enables e) :
    exec (e.instr s.cur.reader.st) s = .next (s.finish (s.cur.after e) (s.cur.labelOf e)) := by
  cases e with
  | byte b =>
    obtain ⟨hfatal, harmed, hhead⟩ := h
    obtain ⟨rest, hq⟩ := List.head?_eq_some_iff.1 hhead
    obtain ⟨-, -, hi⟩ := classify_is_wellFormed_byteEvent s.cur.reader.st b
    rw [Event.instr, exec_eq_byteStep hi, byteStep_next]
    refine ⟨hfatal, harmed, b, rest, hq, rfl, ?_⟩
    rw [Lane.after_byte _ hq, byteRegisters_tick]
    rfl
  | nobyte =>
    obtain ⟨hfatal, harmed, hq⟩ := h
    exact execNobyte_next.2 ⟨hfatal, harmed, hq, rfl⟩
  | req =>
    rw [Event.instr, exec, execReq, controlStep_next]
    cases hf : s.cur.reader.fatal with
    | true => simp [Lane.after_of_fatal hf, Lane.labelOf]
    | false => cases ha : s.cur.reader.armed <;> simp [Lane.after_req hf, Lane.labelOf, Lane.tick, Reader.tick, ha]
  | flush | cancel | devlost =>
    simp only [Event.instr, exec, execFlush, execCancel, execDevlost, controlStep_next]
    cases hf : s.cur.reader.fatal with
    | true => simp [Lane.after_of_fatal hf, Lane.labelOf, hf]
    | false => simp [Lane.after_flush hf, Lane.after_cancel hf, Lane.after_devlost hf, Lane.labelOf, hf, Lane.tick,
        Lane.rxFlush]
  | reset => rfl

/-- The same, in the words of the statements: the label, the frame and the channel. -/
theorem exec_event_completes {e : Event} {s : State} (h : s.cur.Enables e) :
    ∃ t, exec (e.instr s.cur.reader.st) s = .next t ∧ t.label = some (s.cur.labelOf e) ∧ SameElsewhere s t ∧
      t.cur = s.cur.after e :=
  ⟨_, exec_event h, s.finish_label _ _, finish_sameElsewhere s _ _, s.finish_cur _ _⟩

/-- Settles O14. -/
theorem nobyteChangesNothing : Obligations.NobyteChangesNothing := by
  intro s harmed hfatal hq
  exact exec_event_completes (e := .nobyte) ⟨hfatal, harmed, hq⟩

/-- Settles O15. -/
theorem reqArmsAnIdleReader : Obligations.ReqArmsAnIdleReader := by
  intro s hfatal
  obtain ⟨t, hnext, hlabel, hsame, hcur⟩ := exec_event_completes (e := .req) (s := s) trivial
  exact ⟨t, hnext, hlabel, hsame, hcur.trans (Lane.after_req hfatal)⟩

/-- Settles O16. -/
theorem flushEmptiesTheQueue : Obligations.FlushEmptiesTheQueue := by
  intro s hfatal
  obtain ⟨t, hnext, hlabel, hsame, hcur⟩ := exec_event_completes (e := .flush) (s := s) trivial
  exact ⟨t, hnext, hlabel, hsame, hcur.trans (Lane.after_flush hfatal)⟩

/-- Settles O17. -/
theorem cancelEndsTheRequest : Obligations.CancelEndsTheRequest := by
  intro s hfatal
  obtain ⟨t, hnext, hlabel, hsame, hcur⟩ := exec_event_completes (e := .cancel) (s := s) trivial
  refine ⟨t, hnext, hsame, ?_, hcur.trans (Lane.after_cancel hfatal)⟩
  rw [hlabel, Lane.labelOf, hfatal]
  rfl

/-- Settles O18. -/
theorem devlostSetsFatal : Obligations.DevlostSetsFatal := by
  intro s hfatal
  obtain ⟨t, hnext, hlabel, hsame, hcur⟩ := exec_event_completes (e := .devlost) (s := s) trivial
  refine ⟨t, hnext, ?_, hsame, hcur.trans (Lane.after_devlost hfatal)⟩
  rw [hlabel, Lane.labelOf, hfatal]
  rfl

/-- Settles O19. -/
theorem resetRestoresTheSixRegisters : Obligations.ResetRestoresTheSixRegisters := by
  intro s
  exact exec_event_completes (e := .reset) trivial

/-- R87: on a fatal reader the four ignored events report nothing and leave the channel to its tick. -/
theorem exec_ignored_event {e : Event} {s : State} (hfatal : s.cur.reader.fatal = true)
    (he : e = .req ∨ e = .flush ∨ e = .cancel ∨ e = .devlost) :
    ∃ t, exec (e.instr s.cur.reader.st) s = .next t ∧ t.label = some .nothing ∧ SameElsewhere s t ∧
      t.cur = s.cur.tick := by
  have henabled : s.cur.Enables e := by obtain rfl | rfl | rfl | rfl := he <;> trivial
  have hlabel : s.cur.labelOf e = .nothing := by
    obtain rfl | rfl | rfl | rfl := he <;> simp [Lane.labelOf, hfatal]
  rw [← hlabel, ← Lane.after_of_fatal hfatal he]
  exact exec_event_completes henabled

/-- Settles O20. -/
theorem fatalReaderIgnoresControlEvents : Obligations.FatalReaderIgnoresControlEvents := by
  intro s i hfatal hi
  simp only [List.mem_cons, List.not_mem_nil, or_false] at hi
  obtain rfl | rfl | rfl | rfl := hi
  · exact exec_ignored_event (e := .req) hfatal (by simp)
  · exact exec_ignored_event (e := .flush) hfatal (by simp)
  · exact exec_ignored_event (e := .cancel) hfatal (by simp)
  · exact exec_ignored_event (e := .devlost) hfatal (by simp)

/-! ### Who ends a request, and where `st` goes -/

/-- R18, R91: a live request goes on past every instruction but the four that end it. -/
theorem readerAfter_armed_of_live (i : Instr) (b : Byte) {r : Reader} (harmed : r.armed = true)
    (hfatal : r.fatal = false) :
    (readerAfter i b r).armed = false ↔ (∃ x, i = .rlEmit x) ∨ i = .cancel ∨ i = .devlost ∨ i = .reset := by
  cases i
  case rlEmit x => exact ⟨fun _ => .inl ⟨x, rfl⟩, fun _ => rfl⟩
  case reset => exact ⟨fun _ => .inr (.inr (.inr rfl)), fun _ => rfl⟩
  case cancel | devlost => simp [readerAfter, hfatal]
  all_goals simp [readerAfter, byteRegisters, hfatal, harmed]

/-- R82, R91: no instruction but `REQ` starts a request. -/
theorem readerAfter_armed_of_idle {i : Instr} {b : Byte} {r : Reader} (hon : StepsOn i b r) (hidle : r.armed = false)
    (harmed : (readerAfter i b r).armed = true) : i = .req := by
  cases i
  case req => rfl
  case wsSync | wsSkip | rhAccept | rhReject | rlEmit =>
    obtain ⟨-, ha, -⟩ := hon rfl
    exact absurd (hidle.symm.trans ha) (by decide)
  case flush | cancel | devlost =>
    simp only [readerAfter] at harmed
    split at harmed <;> simp [hidle] at harmed
  case reset => cases harmed
  case nobyte | code2v | calStage1 | calStage2 | calEval | samplePower =>
    exact absurd (hidle.symm.trans harmed) (by decide)

/-- Settles O22: read off the registers an instruction leaves. -/
theorem onlyFourEventsEndARequest : Obligations.OnlyFourEventsEndARequest := by
  intro s t i h
  obtain ⟨b, hon, ht⟩ := exec_reader h
  rw [ht]
  exact ⟨readerAfter_armed_of_live i b, readerAfter_armed_of_idle hon⟩

/-- Settles O25: read off the registers an instruction leaves. -/
theorem controlTransfersGoWhereListed : Obligations.ControlTransfersGoWhereListed := by
  intro s t i h hfatal
  obtain ⟨b, -, ht⟩ := exec_reader h
  rw [ht]
  cases i
  case req | flush | cancel | devlost => simp [readerAfter, hfatal]
  all_goals rfl

end Sys2Proof.Machine
end

section
/-! `Scan` (41_control_events.md R92 to R95): what one byte makes of a protocol state, and what garbage and a frame do. -/
namespace Sys2Proof.Machine

/-- R92, R94: bytes that leave a request pending leave the rest to the state they end in. -/
theorem scan_append_of_pending {q q' : ScanState} {pre : List Byte} (h : scan q pre = .pending q') (rest : List Byte) :
    scan q (pre ++ rest) = scan q' rest := by
  induction pre generalizing q with
  | nil =>
    cases q <;> cases h <;> rfl
  | cons b pre ih =>
    cases q with
    | waitSync | readHigh =>
      simp only [scan, List.cons_append] at h ⊢
      split at h
      all_goals
        next hb => simpa only [hb, if_true, if_false] using ih h
    | readLow n => cases h

/-- R91, R92: a request is done on the low byte of a frame, and everything before that byte leaves it pending. -/
theorem scan_done_split {q : ScanState} {bytes tail : List Byte} {smp : Sample} (h : scan q bytes = .done smp tail) :
    ∃ pre n b, bytes = pre ++ b :: tail ∧ scan q pre = .pending (.readLow n) ∧ smp = assembleSample n b := by
  induction bytes generalizing q with
  | nil => cases q <;> cases h
  | cons b bytes ih =>
    cases q with
    | waitSync | readHigh =>
      simp only [scan] at h
      split at h
      all_goals
        next hb =>
          obtain ⟨pre, n, x, rfl, hpre, hsmp⟩ := ih h
          exact ⟨b :: pre, n, x, rfl, by simpa [scan, hb] using hpre, hsmp⟩
    | readLow n =>
      cases h
      exact ⟨[], n, b, rfl, rfl, rfl⟩

/-- R56, R94: garbage without the sync byte keeps a request searching. -/
theorem scan_garbage {g : List Byte} (h : ∀ b ∈ g, b ≠ Config.syncByte) : scan .waitSync g = .pending .waitSync := by
  induction g with
  | nil => rfl
  | cons b g ih =>
    obtain ⟨hb, hg⟩ := List.forall_mem_cons.1 h
    simp [scan, hb, ih hg]

/-- R95: after the sync byte an invalid high byte is dropped. -/
theorem scan_sync_of_invalid {b : Byte} (h : isValidHigh b = false) (t : List Byte) :
    scan .waitSync (Config.syncByte :: b :: t) = scan .waitSync t := by
  have hb : b &&& Config.highMask ≠ Config.highExpect := of_decide_eq_false h
  simp [scan, hb]

/-- R92: after the sync byte a valid high byte and any byte make a sample. -/
theorem scan_sync_of_valid {b : Byte} (h : isValidHigh b = true) (x : Byte) (t : List Byte) :
    scan .waitSync (Config.syncByte :: b :: x :: t) = .done (assembleSample (lowNibble b) x) t := by
  have hb : b &&& Config.highMask = Config.highExpect := of_decide_eq_true h
  simp [scan, hb]

/-- R94: garbage before a frame is skipped; the frame's high byte is any nibble, zero extended. -/
theorem nextSample_garbage_frame {g : List Byte} (h : ∀ b ∈ g, b ≠ Config.syncByte) (n : Nibble) (x : Byte)
    (t : List Byte) :
    nextSample (g ++ Config.syncByte :: n.setWidth 8 :: x :: t) = .done (assembleSample n x) t := by
  rw [nextSample, scan_append_of_pending (scan_garbage h), scan_sync_of_valid (isValidHigh_setWidth n),
    lowNibble_setWidth]

/-- R58, R94: the frame of a sample gives that sample. -/
theorem nextSample_garbage_frame_sample {g : List Byte} (h : ∀ b ∈ g, b ≠ Config.syncByte) (s : Sample)
    (t : List Byte) : nextSample (g ++ frame s ++ t) = .done s t := by
  have hframe := nextSample_garbage_frame h (s.extractLsb' 8 4) (s.extractLsb' 0 8) t
  rw [assembleSample_extract] at hframe
  rw [List.append_assoc]
  exact hframe

/-- Settles O58: garbage and a frame, twice; the last clause is one byte string. -/
theorem leadingGarbageIsSkipped : Obligations.LeadingGarbageIsSkipped := by
  refine ⟨fun g X YY t hg => ⟨?first, ?further⟩, ?sync_in_garbage⟩
  case first =>
    rw [zero_append_nibble, ← assembleSample_eq_shiftLeft_or, List.append_assoc]
    exact nextSample_garbage_frame hg X YY t
  case further =>
    rintro g' s' t' hg' rfl
    exact nextSample_garbage_frame_sample hg' s' t'
  case sync_in_garbage => decide

/-- Settles O59: the dropped byte, then a frame behind the garbage byte `0x00`; the last clause is one byte string. -/
theorem invalidHighByteIsDropped : Obligations.InvalidHighByteIsDropped := by
  refine ⟨fun b t hb => scan_sync_of_invalid (decide_eq_false hb) t, fun s t => ?example_frame, ?lost_frame⟩
  case example_frame =>
    have hdrop : nextSample ([0xFF#8, 0x10#8, 0x00#8] ++ frame s ++ t) = nextSample ([0x00#8] ++ frame s ++ t) :=
      scan_sync_of_invalid (by decide) _
    rw [hdrop]
    exact nextSample_garbage_frame_sample (by decide) s t
  case lost_frame => decide

end Sys2Proof.Machine
end

section
/-! What the pins of a cycle resolve to (41_control_events.md R80), branch by branch of the priority. -/
namespace Sys2Proof.Machine

section
variable {r : Reader} {p : ReaderPins}

theorem resolve_of_rst (hrst : p.rst = true) (cancel : Bool) (offered : Option Byte) :
    resolve r p cancel offered = [.reset] := by
  simp [resolve, hrst]

theorem resolve_of_fatal (hrst : p.rst = false) (hfatal : r.fatal = true) (cancel : Bool) (offered : Option Byte) :
    resolve r p cancel offered = [] := by
  simp [resolve, hrst, hfatal]

theorem resolve_of_rxLost (hrst : p.rst = false) (hfatal : r.fatal = false) (hlost : p.rxLost = true) (cancel : Bool)
    (offered : Option Byte) : resolve r p cancel offered = [.devlost] := by
  simp [resolve, hrst, hfatal, hlost]

theorem live_of_pins (hrst : p.rst = false) (hfatal : r.fatal = false) (hlost : p.rxLost = false) :
    (p.rst || r.fatal || p.rxLost) = false := by
  simp [hrst, hfatal, hlost]

/-- `cancel` silences `req` and the handshake. -/
theorem resolve_of_cancel (hlive : (p.rst || r.fatal || p.rxLost) = false) (offered : Option Byte) :
    resolve r p true offered = .cancel :: if p.flush then [.flush] else [] := by
  simp [resolve_of_live hlive, Reader.rxReady]

/-- `flush` silences the handshake. -/
theorem resolve_of_flush (hlive : (p.rst || r.fatal || p.rxLost) = false) (hflush : p.flush = true)
    (offered : Option Byte) : resolve r p false offered = .flush :: if p.req then [.req] else [] := by
  simp [resolve_of_live hlive, Reader.rxReady, hflush]

theorem rxReady_of_live (hlive : (p.rst || r.fatal || p.rxLost) = false) (hflush : p.flush = false) :
    r.rxReady p false = r.armed := by
  simp only [Bool.or_eq_false_iff] at hlive
  obtain ⟨⟨hrst, hfatal⟩, hlost⟩ := hlive
  simp [Reader.rxReady, hrst, hfatal, hlost, hflush]

/-- With neither, `req` stands before the handshake of a request outstanding before the edge. -/
theorem resolve_of_no_cancel_no_flush (hlive : (p.rst || r.fatal || p.rxLost) = false) (hflush : p.flush = false)
    (offered : Option Byte) :
    resolve r p false offered =
      (if p.req then [.req] else []) ++ if r.armed then [offered.elim .nobyte .byte] else [] := by
  simp [resolve_of_live hlive, rxReady_of_live hlive hflush, hflush]

end

/-- R80: the branches of the priority, each with the events it gives; what holds in all six holds of every cycle. -/
theorem resolve_elim {r : Reader} {p : ReaderPins} {offered : Option Byte} {motive : Bool → List Event → Prop}
    (rst : p.rst = true → ∀ cancel, motive cancel [.reset])
    (fatal : r.fatal = true → ∀ cancel, motive cancel [])
    (rxLost : p.rxLost = true → ∀ cancel, motive cancel [.devlost])
    (cancelled : (p.rst || r.fatal || p.rxLost) = false → motive true (.cancel :: if p.flush then [.flush] else []))
    (flushed : (p.rst || r.fatal || p.rxLost) = false → p.flush = true →
      motive false (.flush :: if p.req then [.req] else []))
    (handshake : (p.rst || r.fatal || p.rxLost) = false → p.flush = false →
      motive false ((if p.req then [.req] else []) ++ if r.armed then [offered.elim .nobyte .byte] else []))
    (cancel : Bool) : motive cancel (resolve r p cancel offered) := by
  cases hrst : p.rst
  case true => rw [resolve_of_rst hrst]; exact rst hrst cancel
  cases hfatal : r.fatal
  case true => rw [resolve_of_fatal hrst hfatal]; exact fatal hfatal cancel
  cases hlost : p.rxLost
  case true => rw [resolve_of_rxLost hrst hfatal hlost]; exact rxLost hlost cancel
  have hlive := live_of_pins hrst hfatal hlost
  cases cancel
  case true => rw [resolve_of_cancel hlive]; exact cancelled hlive
  cases hflush : p.flush
  case true => rw [resolve_of_flush hlive hflush]; exact flushed hlive hflush
  case false => rw [resolve_of_no_cancel_no_flush hlive hflush]; exact handshake hlive hflush

theorem length_ite_singleton_le (b : Bool) (e : Event) : (if b then [e] else []).length ≤ 1 := by
  split <;> simp

theorem resolve_length_le (r : Reader) (p : ReaderPins) (cancel : Bool) (offered : Option Byte) :
    (resolve r p cancel offered).length ≤ 3 := by
  have hpiece := length_ite_singleton_le
  refine resolve_elim (motive := fun _ es => es.length ≤ 3) ?rst ?fatal ?rxLost ?cancelled ?flushed ?handshake cancel
  case rst | fatal | rxLost => intros; simp
  case cancelled => intro _; have := hpiece p.flush .flush; rw [List.length_cons]; omega
  case flushed => intro _ _; have := hpiece p.req .req; rw [List.length_cons]; omega
  case handshake =>
    intro _ _
    have := hpiece p.req .req
    have := hpiece r.armed (offered.elim .nobyte .byte)
    rw [List.length_append]
    omega

/-- Settles O46, branch by branch. -/
theorem pinsResolveInPriorityOrder : Obligations.PinsResolveInPriorityOrder := by
  intro r p cancel offered
  refine ⟨fun hrst => resolve_of_rst hrst _ _, fun hrst hfatal => resolve_of_fatal hrst hfatal _ _,
    fun hrst hfatal hlost => resolve_of_rxLost hrst hfatal hlost _ _, fun hrst hfatal hlost => ?live, ?length⟩
  case live =>
    have hlive := live_of_pins hrst hfatal hlost
    refine ⟨?cancel, ?flush, ?handshake⟩
    case cancel =>
      rintro rfl
      rw [resolve_of_cancel hlive]
      split <;> rfl
    case flush =>
      rintro rfl hflush
      rw [resolve_of_flush hlive hflush]
      split <;> rfl
    case handshake =>
      rintro rfl hflush
      rw [resolve_of_no_cancel_no_flush hlive hflush]
      refine ⟨fun hidle => ?_, fun harmed b hb => ?_, fun harmed hnone => ?_⟩
      · simp [hidle]
      · cases p.req <;> simp [harmed, hb]
      · cases p.req <;> simp [harmed, hnone]
  case length => exact resolve_length_le r p cancel offered

end Sys2Proof.Machine
end

section
/-! Runs of tasks (41_control_events.md R80, R89): the tasks a channel has before it are taken up in turn, each one step,
and together they make of the channel what its events make of it one after the other. -/
namespace Sys2Proof.Machine

theorem core_run_add {m : Nat} {s t : State} (h : core.run m s = .next t) (n : Nat) :
    core.run (m + n) s = core.run n t := by
  induction m generalizing s with
  | zero => cases h; rw [Nat.zero_add]
  | succ m ih =>
    cases hstep : step s with
    | next s' =>
      rw [core_run_succ hstep] at h
      rw [Nat.succ_add, core_run_succ hstep, ih h]
    | fault r => exact nomatch r
    | refused r =>
      have hcore : core.step s = .refused r := hstep
      simp [Host.Core.run, hcore] at h

/-- What `s` is to do next is `ks` and then the inputs `xs`: the tasks stand in either of the two lists (R80, R89). -/
def Queued (ks : List Task) (xs : List Input) (s : State) : Prop :=
  (s.pending = ks ∧ s.inputs = xs) ∨ (s.pending = [] ∧ s.inputs = ks.map Input.present ++ xs)

theorem queued_nil {xs : List Input} {s : State} : Queued [] xs s ↔ s.pending = [] ∧ s.inputs = xs := by
  simp [Queued]

/-- The channel `c` has become `l`, and nothing else of the block has changed (R33). -/
structure ChannelBecomes (c : Chan) (l : Lane) (s t : State) : Prop where
  lane : t.lane c = l
  other : t.lane (otherChan c) = s.lane (otherChan c)
  table : t.table = s.table
  params : t.params = s.params

theorem ChannelBecomes.refl (c : Chan) (s : State) : ChannelBecomes c (s.lane c) s s := ⟨rfl, rfl, rfl, rfl⟩

theorem ChannelBecomes.trans {c : Chan} {l l' : Lane} {s t u : State} (h : ChannelBecomes c l s t)
    (h' : ChannelBecomes c l' t u) : ChannelBecomes c l' s u :=
  ⟨h'.lane, h'.other.trans h.other, h'.table.trans h.table, h'.params.trans h.params⟩

theorem ChannelBecomes.usableTable {c : Chan} {l : Lane} {s t : State} (h : ChannelBecomes c l s t) :
    usableTable t = usableTable s :=
  usableTable_congr h.table h.params

/-- The step that takes up the first task, which ends by `finish` on the channel `c`. -/
theorem step_queued {k : Task} {ks : List Task} {xs : List Input} {s : State} {c : Chan} {l : Lane} {lbl : Label}
    (hs : Queued (k :: ks) xs s)
    (hk : ∀ s', SameBlock s s' → runTask k s' = .next ((s'.select c).finish l lbl)) :
    ∃ t, step s = .next t ∧ Queued ks xs t ∧ ChannelBecomes c l s t ∧ t.label = some lbl := by
  obtain ⟨s', hstep, hblock, hs'⟩ : ∃ s', step s = runTask k s' ∧ SameBlock s s' ∧ Queued ks xs s' := by
    obtain ⟨hp, hi⟩ | ⟨hp, hi⟩ := hs
    · obtain ⟨hstep, hlane⟩ := step_task (.inl ⟨hp, rfl⟩) (xs := xs)
      exact ⟨_, hstep, ⟨hlane, rfl, rfl⟩, .inl ⟨rfl, hi⟩⟩
    · obtain ⟨hstep, hlane⟩ := step_task (.inr ⟨hp, hi, rfl⟩) (ts := [])
      exact ⟨_, hstep, ⟨hlane, rfl, rfl⟩, .inr ⟨hp, rfl⟩⟩
  refine ⟨_, hstep.trans (hk s' hblock), ?_, ⟨?_, ?_, ?_, ?_⟩, State.finish_label _ _ _⟩
  · simpa [Queued] using hs'
  · exact State.finish_lane_sel (s'.select c) l lbl
  · exact (State.finish_lane_other (s'.select c) l lbl).trans (by simpa using hblock.lane _)
  · simpa using hblock.table
  · simpa using hblock.params

/-- R80, R89: a channel's next event, where it is enabled, is one step. -/
theorem step_event {c : Chan} {e : Event} {ks : List Task} {xs : List Input} {s : State}
    (hs : Queued (.event c e :: ks) xs s) (he : (s.lane c).Enables e) :
    ∃ t, step s = .next t ∧ Queued ks xs t ∧ ChannelBecomes c ((s.lane c).after e) s t ∧
      t.label = some ((s.lane c).labelOf e) := by
  refine step_queued hs fun s' hblock => ?_
  rw [← hblock.lane c] at he ⊢
  have hdecode : decode (fetchWord c e s') = .ok (e.instr (s'.lane c).reader.st) := decode_eventWord _ _
  rw [runTask, runWord_ok hdecode, ← s'.select_cur c]
  exact exec_event (by rwa [s'.select_cur c])

/-- R109, R111: a reading that leaves the datapath is one step, and only the channel's output shows it. -/
theorem step_samplePower {c : Chan} {code : Sample} {f : CalNum} {ks : List Task} {xs : List Input} {s : State}
    {T : CalTable} (hs : Queued (.datapath c (.samplePower code f) :: ks) xs s) (hT : usableTable s = .ok T) :
    ∃ t res, step s = .next t ∧ Queued ks xs t ∧ ChannelBecomes c { s.lane c with calRes := some res } s t := by
  obtain ⟨t, hstep, ht, hc, -⟩ :=
    step_queued (c := c) (lbl := .nothing) hs (l := { s.lane c with
      calRes := some (.reading f (calPower T (codeToVoltage s.params.adcDiv code) f)) }) fun s' hblock => by
        have hT' : usableTable (s'.select c) = .ok T := by
          rwa [usableTable_congr (s := s) (by simpa using hblock.table) (by simpa using hblock.params)]
        rw [runTask, decodeDatapath, exec, execSamplePower, withTable_ok hT', datapathStep, s'.select_cur c,
          s'.select_params, hblock.lane c, hblock.params]
  exact ⟨t, _, hstep, ht, hc⟩

/-- Each event is enabled on the channel the ones before it leave. -/
def Lane.EnablesInTurn (l : Lane) : List Event → Prop
  | [] => True
  | e :: es => l.Enables e ∧ (l.after e).EnablesInTurn es

/-- A row of events of one channel, each enabled in its turn, runs to its end. -/
theorem run_events {c : Chan} {es : List Event} {ks : List Task} {xs : List Input} {s : State}
    (hs : Queued (es.map (.event c) ++ ks) xs s) (hes : (s.lane c).EnablesInTurn es) :
    ∃ t, core.run es.length s = .next t ∧ Queued ks xs t ∧
      ChannelBecomes c (es.foldl Lane.after (s.lane c)) s t := by
  induction es generalizing s with
  | nil => exact ⟨s, rfl, hs, .refl c s⟩
  | cons e es ih =>
    obtain ⟨he, hes⟩ := hes
    obtain ⟨s', hstep, hs', hc, -⟩ := step_event hs he
    rw [← hc.lane] at hes
    obtain ⟨t, hrun, ht, hc'⟩ := ih hs' hes
    rw [hc.lane] at hc'
    exact ⟨t, (core_run_succ hstep).trans hrun, ht, hc.trans hc'⟩

/-- What a row of readings leaves of a channel: at most another result on its output. -/
theorem run_readings {c : Chan} {q : List InFlight} {ks : List Task} {xs : List Input} {s : State}
    (hs : Queued (q.map (fun x => .datapath c (.samplePower x.code x.freq)) ++ ks) xs s)
    (hT : q ≠ [] → ∃ T, usableTable s = .ok T) :
    ∃ t res, core.run q.length s = .next t ∧ Queued ks xs t ∧
      ChannelBecomes c { s.lane c with calRes := res } s t := by
  induction q generalizing s with
  | nil => exact ⟨s, (s.lane c).calRes, rfl, hs, .refl c s⟩
  | cons x q ih =>
    obtain ⟨T, hT⟩ := hT (List.cons_ne_nil _ _)
    obtain ⟨s', res, hstep, hs', hc⟩ := step_samplePower hs hT
    obtain ⟨t, res', hrun, ht, hc'⟩ := ih hs' fun _ => ⟨T, hc.usableTable.trans hT⟩
    rw [hc.lane] at hc'
    exact ⟨t, res', (core_run_succ hstep).trans hrun, ht, hc.trans hc'⟩

/-! ### No time-out -/

theorem Lane.enablesInTurn_nobyte {l : Lane} (harmed : l.reader.armed = true) (hfatal : l.reader.fatal = false)
    (hq : l.rxq = []) (n : Nat) : l.EnablesInTurn (List.replicate n .nobyte) := by
  induction n generalizing l with
  | zero => trivial
  | succ n ih => exact ⟨⟨hfatal, harmed, hq⟩, ih (l := l.tick) harmed hfatal hq⟩

/-- R81, R116: any number of `NOBYTE`s is no more than one. -/
theorem Lane.foldl_after_nobyte (l : Lane) (n : Nat) :
    (List.replicate n Event.nobyte).foldl Lane.after l = if n = 0 then l else l.tick := by
  induction n generalizing l with
  | zero => rfl
  | succ n ih =>
    rw [List.replicate_succ, List.foldl_cons, ih]
    split <;> rfl

/-- Settles O57: the run of the `NOBYTE`s leaves the channel, or its tick. -/
theorem nobyteNeverEndsARequest : Obligations.NobyteNeverEndsARequest := by
  intro n s c xs hp hi harmed hfatal hq
  have hs : Queued ((List.replicate n Event.nobyte).map (.event c) ++ []) xs s := .inr ⟨hp, by simpa using hi⟩
  obtain ⟨t, hrun, ht, hc⟩ := run_events hs (Lane.enablesInTurn_nobyte harmed hfatal hq n)
  obtain ⟨hp', hi'⟩ := queued_nil.1 ht
  rw [List.length_replicate] at hrun
  refine ⟨t, hrun, hi', hp', ?_⟩
  rw [hc.lane, Lane.foldl_after_nobyte]
  split <;> simp [harmed, hfatal, hq]

/-! ### A request reads its bytes -/

/-- A request is outstanding and stands in the state `q` of R92. -/
structure ScanState.Outstanding (q : ScanState) (r : Reader) : Prop where
  armed : r.armed = true
  fatal : r.fatal = false
  state : q.At r

/-- R79, R92: the registers a byte leaves stand where `Scan` goes on from. -/
theorem scan_cons_pending {q q' : ScanState} {b : Byte} {bytes : List Byte} {r : Reader} (hq : q.Outstanding r)
    (h : scan q (b :: bytes) = .pending q') :
    ∃ q₁ : ScanState, q₁.Outstanding (byteRegisters (classify r.st b) b r) ∧ scan q₁ bytes = .pending q' := by
  obtain ⟨harmed, hfatal, hst⟩ := hq
  cases q with
  | waitSync =>
    have hst : r.st = .waitSync := hst
    rw [hst]
    simp only [scan] at h
    split at h
    case isTrue hb => subst hb; exact ⟨.readHigh, ⟨harmed, hfatal, rfl⟩, h⟩
    case isFalse hb => rw [classify_waitSync_of_ne hb]; exact ⟨.waitSync, ⟨harmed, hfatal, hst⟩, h⟩
  | readHigh =>
    have hst : r.st = .readHigh := hst
    rw [hst]
    simp only [scan] at h
    split at h
    case isTrue hb =>
      have hclass : classify .readHigh b = .rhAccept (lowNibble b) := by simp [classify, isValidHigh, hb]
      rw [hclass]
      exact ⟨.readLow (lowNibble b), ⟨harmed, hfatal, rfl, rfl⟩, h⟩
    case isFalse hb =>
      rw [classify_readHigh_of_invalid (decide_eq_false hb)]
      exact ⟨.waitSync, ⟨harmed, hfatal, rfl⟩, h⟩
  | readLow n => cases h

theorem queued_bytes {c : Chan} {bytes : List Byte} {xs : List Input} {s : State} (hp : s.pending = [])
    (hi : s.inputs = bytes.map (fun b => .present (.event c (.byte b))) ++ xs) :
    Queued (bytes.map (fun b => .event c (.byte b))) xs s :=
  .inr ⟨hp, by rw [List.map_map]; exact hi⟩

/-- R92: while `Scan` is pending, the request reads every byte and stands in the state `Scan` names. -/
theorem run_bytes_of_pending {c : Chan} {q q' : ScanState} {bytes rest : List Byte} {ks : List Task} {xs : List Input}
    {s : State} (hs : Queued (bytes.map (fun b => .event c (.byte b)) ++ ks) xs s)
    (hq : q.Outstanding (s.lane c).reader) (hrxq : (s.lane c).rxq = bytes ++ rest) (hscan : scan q bytes = .pending q') :
    ∃ t l, core.run bytes.length s = .next t ∧ Queued ks xs t ∧ ChannelBecomes c l s t ∧ q'.Outstanding l.reader ∧
      l.rxq = rest := by
  induction bytes generalizing q s with
  | nil =>
    obtain rfl : q = q' := by cases q <;> cases hscan <;> rfl
    exact ⟨s, _, rfl, hs, .refl c s, hq, hrxq⟩
  | cons b bytes ih =>
    obtain ⟨s', hstep, hs', hc, -⟩ := step_event hs ⟨hq.fatal, hq.armed, by simp [hrxq]⟩
    rw [Lane.after_byte _ hrxq] at hc
    obtain ⟨q₁, hq₁, hscan₁⟩ := scan_cons_pending hq hscan
    obtain ⟨t, l, hrun, ht, hc', hl⟩ := ih hs' (by rwa [hc.lane]) (by rw [hc.lane]; rfl) hscan₁
    exact ⟨t, l, (core_run_succ hstep).trans hrun, ht, hc.trans hc', hl⟩

/-- R78, R92: on a byte list that makes a sample, the request reads up to the low byte, and that byte emits it. -/
theorem run_bytes_of_done {c : Chan} {q : ScanState} {n : Nibble} {pre tail : List Byte} {b : Byte} {xs : List Input}
    {s : State} (hs : Queued ((pre ++ [b]).map (fun b => .event c (.byte b))) xs s)
    (hq : q.Outstanding (s.lane c).reader) (hrxq : (s.lane c).rxq = pre ++ b :: tail)
    (hscan : scan q pre = .pending (.readLow n)) :
    ∃ t l, core.run (pre.length + 1) s = .next t ∧ Queued [] xs t ∧ ChannelBecomes c l s t ∧ l.rxq = tail ∧
      l.reader.sample = some (assembleSample n b) ∧ l.reader.armed = false ∧ l.reader.st = .waitSync ∧
      t.label = some .emit := by
  rw [List.map_append] at hs
  obtain ⟨s', l, hrun, hs', hc, hl, hrest⟩ := run_bytes_of_pending hs hq hrxq hscan
  obtain ⟨hst, hhi⟩ := hl.state
  rw [← hc.lane] at hl hrest hst hhi
  obtain ⟨t, hstep, ht, hc', hlabel⟩ := step_event hs' ⟨hl.fatal, hl.armed, by simp [hrest]⟩
  rw [Lane.after_byte _ hrest, hst] at hc'
  rw [Lane.labelOf, hst] at hlabel
  refine ⟨t, _, (core_run_add hrun 1).trans (core_run_succ hstep), ht, hc.trans hc', rfl, ?_, rfl, rfl, hlabel⟩
  rw [← hhi]
  rfl

/-- Settles O56: a pending request reads all its bytes, a finished one up to its low byte. -/
theorem runOfByteEventsComputesScan : Obligations.RunOfByteEventsComputesScan := by
  intro s c q bytes xs hp harmed hfatal hstate hrxq
  have hq : q.Outstanding (s.lane c).reader := ⟨harmed, hfatal, hstate⟩
  constructor
  case left =>
    intro smp tail hscan hi
    obtain ⟨pre, n, b, rfl, hpre, rfl⟩ := scan_done_split hscan
    have hused : pre ++ b :: tail = (pre ++ [b]) ++ tail := by simp
    have hlen : (pre ++ b :: tail).length - tail.length = pre.length + 1 := by simp; omega
    rw [hlen] at hi ⊢
    rw [hused, List.take_left' (by simp)] at hi
    obtain ⟨t, l, hrun, ht, hc, hl⟩ := run_bytes_of_done (queued_bytes hp hi) hq hrxq hpre
    obtain ⟨hp', hi'⟩ := queued_nil.1 ht
    obtain ⟨htail, hsample, harmed', hst, hlabel⟩ := hl
    rw [← hc.lane] at htail hsample harmed' hst
    exact ⟨t, hrun, hi', hp', htail, hsample, harmed', hst, hlabel, hc.other⟩
  case right =>
    intro q' hscan hi
    obtain ⟨t, l, hrun, ht, hc, hl, hrest⟩ :=
      run_bytes_of_pending (rest := []) (ks := []) (by simpa using queued_bytes hp hi) hq (by simpa using hrxq) hscan
    obtain ⟨hp', hi'⟩ := queued_nil.1 ht
    rw [← hc.lane] at hl hrest
    exact ⟨t, hrun, hi', hp', hrest, hl.state, hl.armed, hc.other⟩

end Sys2Proof.Machine
end

section
/-! A clock cycle (41_control_events.md R80, R88, R89; 42_calibration.md R111): what the edge queues, and the run of what it
queued, channel by channel. -/
namespace Sys2Proof.Machine

/-! ### The edge -/

@[simp] theorem laneEdge_rxq (latency : Nat) (p : ReaderPins) (cancel : Bool) (l : Lane) :
    (laneEdge latency p cancel l).rxq = l.rxq := rfl

@[simp] theorem laneEdge_fatal (latency : Nat) (p : ReaderPins) (cancel : Bool) (l : Lane) :
    (laneEdge latency p cancel l).reader.fatal = l.reader.fatal := by
  simp only [laneEdge]
  split <;> rfl

@[simp] theorem laneEdge_armed (latency : Nat) (p : ReaderPins) (cancel : Bool) (l : Lane) :
    (laneEdge latency p cancel l).reader.armed = l.reader.armed := by
  simp only [laneEdge]
  split <;> rfl

/-- Without `rst`, what the calibration inputs offer enters (R111, R135). -/
theorem laneFlight_of_no_rst {p : ReaderPins} (h : p.rst = false) (latency : Nat) (l : Lane) :
    laneFlight latency p l = l.flight ++ entering latency (calOperands l p.cal) := by
  simp [laneFlight, laneEntering, h]

/-- With nothing pending, an edge the environment gives is the step, and with nothing given the edge with all pins low. -/
theorem step_edge {s : State} {p : Pins} {xs : List Input} (hp : s.pending = [])
    (hi : s.inputs = .cycle p :: xs ∨ (s.inputs = [] ∧ p = Pins.low ∧ xs = [])) :
    step s = edge p { s with inputs := xs } := by
  obtain hi | ⟨hi, rfl, rfl⟩ := hi
  · simp [step, hp, hi, runInput]
  · have hs : { s with inputs := [] } = s := by rw [← hi]
    rw [hs]
    simp [step, hp, hi]

/-- The edge, where the calibration inputs are used only with a checked table (R140). -/
theorem step_edge_next {s : State} {p : Pins} {xs : List Input} (hp : s.pending = [])
    (hi : s.inputs = .cycle p :: xs ∨ (s.inputs = [] ∧ p = Pins.low ∧ xs = []))
    (hT : calDriven p s = true → ∃ T, usableTable s = .ok T) : step s = .next (edgeState p { s with inputs := xs }) := by
  rw [step_edge hp hi]
  exact edge_next.2 ⟨hT, rfl⟩

/-- Settles O48: the state after the edge, field by field. -/
theorem clockEdgeQueuesBothChannels : Obligations.ClockEdgeQueuesBothChannels := by
  intro s p xs hp hi hT events flight tasks
  have htasks (c : Chan) : laneTasks s.params.calLatency c (p.chan c) p.cancel (s.lane c) = tasks c := by
    cases hrst : (p.chan c).rst <;> simp [laneTasks, laneEvents, tasks, events, flight, hrst, laneFlight_of_no_rst]
  refine ⟨_, step_edge_next hp hi hT, rfl, rfl, rfl, ?pending, fun c => ?lane⟩
  case pending =>
    rw [← htasks .a, ← htasks .b]
    rfl
  case lane =>
    rw [edgeState_lane, s.lane_with_inputs]
    refine ⟨rfl, rfl, fun hrst => ?_, rfl⟩
    exact congrArg staying (laneFlight_of_no_rst hrst _ _)

/-! ### What the events of a cycle make of a channel -/

theorem Lane.after_req_armed {l : Lane} (h : l.reader.armed = true) : (l.after .req).reader.armed = true := by
  simp only [Lane.after, Event.instr, readerAfter]
  split <;> simp [h]

/-- R82: a `req` before the handshake changes nothing the handshake depends on. -/
theorem Lane.foldl_after_req (l : Lane) (b : Bool) :
    ((if b then [Event.req] else []).foldl Lane.after l).rxq = l.rxq ∧
    ((if b then [Event.req] else []).foldl Lane.after l).reader.fatal = l.reader.fatal ∧
    (l.reader.armed = true → ((if b then [Event.req] else []).foldl Lane.after l).reader.armed = true) := by
  cases b with
  | false => exact ⟨rfl, rfl, id⟩
  | true => exact ⟨rfl, by simp [Lane.after, Event.instr, readerAfter_fatal], Lane.after_req_armed⟩

theorem Lane.enablesInTurn_append (l : Lane) (es es' : List Event) :
    l.EnablesInTurn (es ++ es') ↔ l.EnablesInTurn es ∧ (es.foldl Lane.after l).EnablesInTurn es' := by
  induction es generalizing l with
  | nil => simp [Lane.EnablesInTurn]
  | cons e es ih => simp [Lane.EnablesInTurn, ih, and_assoc]

/-- R35, R71, R81: on a live request the byte offered, or `NOBYTE` where there is none, is a step, and takes the byte. -/
theorem Lane.handshake {l : Lane} (hfatal : l.reader.fatal = false) (harmed : l.reader.armed = true) :
    l.Enables (l.rxq.head?.elim .nobyte .byte) ∧ (l.after (l.rxq.head?.elim .nobyte .byte)).rxq = l.rxq.tail := by
  cases hq : l.rxq with
  | nil => exact ⟨⟨hfatal, harmed, hq⟩, by simp [hq]⟩
  | cons b rest => exact ⟨⟨hfatal, harmed, by simp [hq]⟩, by simp [Lane.after_byte l hq]⟩

theorem fatal_of_live {r : Reader} {p : ReaderPins} (h : (p.rst || r.fatal || p.rxLost) = false) : r.fatal = false := by
  simp only [Bool.or_eq_false_iff] at h
  exact h.1.2

/-- R23, R35, R37, R71, R80: from the registers and the queue before the edge, each event of the cycle is a step where it
stands, and the queue ends as the outputs before the edge say. -/
theorem Lane.cycle_queue {l l' : Lane} (hrxq : l'.rxq = l.rxq) (hfatal : l'.reader.fatal = l.reader.fatal)
    (harmed : l'.reader.armed = l.reader.armed) (p : ReaderPins) (cancel : Bool) :
    l'.EnablesInTurn (laneEvents p cancel l) ∧
      ((laneEvents p cancel l).foldl Lane.after l').rxq =
        if l.reader.rxFlush p = true then []
        else if l.reader.rxReady p cancel = true then l.rxq.tail else l.rxq := by
  refine resolve_elim (motive := fun cancel es => l'.EnablesInTurn es ∧ (es.foldl Lane.after l').rxq =
    if l.reader.rxFlush p = true then [] else if l.reader.rxReady p cancel = true then l.rxq.tail else l.rxq)
    ?rst ?fatal ?rxLost ?cancelled ?flushed ?handshake cancel
  case rst | fatal | rxLost =>
    intro h cancel
    obtain ⟨hready, hflush⟩ := rxReady_of_blocked (r := l.reader) (p := p) (by simp [h]) cancel
    rw [hready, hflush]
    exact ⟨by simp [Lane.EnablesInTurn, Lane.Enables], hrxq⟩
  case cancelled =>
    intro hlive
    have hf : l'.reader.fatal = false := hfatal.trans (fatal_of_live hlive)
    rw [rxFlush_of_live hlive, show l.reader.rxReady p true = false by simp [Reader.rxReady], Lane.EnablesInTurn,
      List.foldl_cons, Lane.after_cancel hf]
    cases p.flush
    · exact ⟨⟨trivial, trivial⟩, hrxq⟩
    · exact ⟨⟨trivial, trivial, trivial⟩, by simp [Lane.after_flush, hf]⟩
  case flushed =>
    intro hlive hflush
    have hf : l'.reader.fatal = false := hfatal.trans (fatal_of_live hlive)
    rw [rxFlush_of_live hlive, hflush, Lane.EnablesInTurn, List.foldl_cons, (Lane.foldl_after_req _ _).1,
      Lane.after_flush hf]
    refine ⟨⟨trivial, ?_⟩, rfl⟩
    split <;> simp [Lane.EnablesInTurn, Lane.Enables]
  case handshake =>
    intro hlive hflush
    obtain ⟨hrxq', hfatal', harmed'⟩ := l'.foldl_after_req p.req
    rw [rxFlush_of_live hlive, hflush, rxReady_of_live hlive hflush, Lane.enablesInTurn_append, List.foldl_append]
    have hreq : l'.EnablesInTurn (if p.req then [.req] else []) := by
      split <;> simp [Lane.EnablesInTurn, Lane.Enables]
    generalize (if p.req then [Event.req] else []).foldl Lane.after l' = l'' at *
    cases ha : l.reader.armed with
    | false => exact ⟨⟨hreq, trivial⟩, hrxq'.trans hrxq⟩
    | true =>
      have hhand := Lane.handshake (l := l'') (hfatal'.trans (hfatal.trans (fatal_of_live hlive)))
        (harmed' (harmed.trans ha))
      rw [hrxq', hrxq] at hhand
      exact ⟨⟨hreq, hhand.1, trivial⟩, hhand.2⟩

/-- R30, R135: `rst` alone decides the registers. -/
theorem laneEvents_reader_of_rst {p : ReaderPins} (hrst : p.rst = true) (cancel : Bool) (l l' : Lane) :
    ((laneEvents p cancel l).foldl Lane.after l').reader = Reader.reset := by
  rw [laneEvents, resolve_of_rst hrst]
  rfl

/-! ### The run of a cycle -/

/-- A channel's tasks at an edge are its events and then readings, and there are readings only where the datapath holds
or is given something. -/
theorem laneTasks_eq (latency : Nat) (c : Chan) (p : ReaderPins) (cancel : Bool) (l : Lane) :
    ∃ q : List InFlight, laneTasks latency c p cancel l =
        (laneEvents p cancel l).map (.event c) ++ q.map (fun x => .datapath c (.samplePower x.code x.freq)) ∧
      (q ≠ [] → (laneEntering p l).isSome = true ∨ l.flight ≠ []) := by
  cases hrst : p.rst with
  | true => exact ⟨[], by simp [laneTasks, hrst], fun h => absurd rfl h⟩
  | false =>
    refine ⟨leaving (laneFlight latency p l), by simp [laneTasks, hrst], fun h => ?_⟩
    cases hentering : laneEntering p l with
    | some x => exact .inl rfl
    | none =>
      refine .inr fun hflight => h ?_
      simp [laneFlight, hentering, hflight, entering, leaving]

/-- R80, R89: everything one channel has to do at an edge runs to its end. -/
theorem run_laneTasks {c : Chan} {p : ReaderPins} {cancel : Bool} {l : Lane} {latency : Nat} {ks : List Task}
    {xs : List Input} {s : State} (hs : Queued (laneTasks latency c p cancel l ++ ks) xs s)
    (hl : s.lane c = laneEdge latency p cancel l)
    (hT : (laneEntering p l).isSome = true ∨ l.flight ≠ [] → ∃ T, usableTable s = .ok T) :
    ∃ t res, core.run (laneTasks latency c p cancel l).length s = .next t ∧ Queued ks xs t ∧
      ChannelBecomes c
        { (laneEvents p cancel l).foldl Lane.after (laneEdge latency p cancel l) with calRes := res } s t := by
  obtain ⟨q, htasks, hq⟩ := laneTasks_eq latency c p cancel l
  rw [htasks, List.append_assoc] at hs
  have henables := (Lane.cycle_queue (l := l) (l' := s.lane c) (by simp [hl]) (by simp [hl]) (by simp [hl]) p cancel).1
  obtain ⟨s', hrun, hs', hc⟩ := run_events hs henables
  obtain ⟨t, res, hrun', ht, hc'⟩ := run_readings hs' fun h => (hT (hq h)).imp fun T hT => hc.usableTable.trans hT
  rw [hc.lane, hl] at hc'
  refine ⟨t, res, ?_, ht, hc.trans hc'⟩
  rw [htasks, List.length_append, List.length_map, List.length_map, core_run_add hrun, hrun']

/-- R80, R89: a clock cycle runs to its end, and leaves of each channel what its events leave, with at most another
result on its output. -/
theorem run_cycle {s : State} {p : Pins} {xs : List Input} (hp : s.pending = []) (hi : s.inputs = .cycle p :: xs)
    (hT : (calDriven p s = true ∨ s.laneA.flight ≠ [] ∨ s.laneB.flight ≠ []) → ∃ T, usableTable s = .ok T) :
    ∃ t, core.run (1 + (edgeState p s).pending.length) s = .next t ∧ t.pending = [] ∧ t.inputs = xs ∧
      t.table = s.table ∧ t.params = s.params ∧
      ∀ c, ∃ res, t.lane c =
        { (laneEvents (p.chan c) p.cancel (s.lane c)).foldl Lane.after
            (laneEdge s.params.calLatency (p.chan c) p.cancel (s.lane c)) with calRes := res } := by
  have hstep := step_edge_next hp (.inl hi) fun h => hT (.inl h)
  have hlane (c : Chan) := edgeState_lane p { s with inputs := xs } c
  have hdriven : (laneEntering p.a s.laneA).isSome = true ∨ (laneEntering p.b s.laneB).isSome = true →
      calDriven p s = true := by simp [calDriven]
  have husableA (h : (laneEntering p.a s.laneA).isSome = true ∨ s.laneA.flight ≠ []) : ∃ T, usableTable s = .ok T :=
    hT (h.elim (fun h => .inl (hdriven (.inl h))) fun h => .inr (.inl h))
  have husableB (h : (laneEntering p.b s.laneB).isSome = true ∨ s.laneB.flight ≠ []) : ∃ T, usableTable s = .ok T :=
    hT (h.elim (fun h => .inl (hdriven (.inr h))) fun h => .inr (.inr h))
  obtain ⟨u, resA, hrunA, hu, hA⟩ := run_laneTasks (c := .a) (.inl ⟨rfl, rfl⟩) (hlane .a) husableA
  obtain ⟨t, resB, hrunB, ht, hB⟩ := run_laneTasks (c := .b) (ks := []) (by rw [List.append_nil]; exact hu)
    (hA.other.trans (hlane .b)) fun h => (husableB h).imp fun T hT => hA.usableTable.trans hT
  obtain ⟨hp', hi'⟩ := queued_nil.1 ht
  refine ⟨t, ?run, hp', hi', hB.table.trans hA.table, hB.params.trans hA.params, fun c => ?lane⟩
  case run =>
    rw [Nat.add_comm, core_run_succ hstep]
    have hlen : (edgeState p s).pending.length = _ + _ := List.length_append
    rw [hlen]
    exact (core_run_add hrunA _).trans hrunB
  case lane =>
    cases c with
    | a => exact ⟨resA, hB.other.trans hA.lane⟩
    | b => exact ⟨resB, hB.lane⟩

/-- Settles O49: the cycle runs, and its events leave the queue and the reset values. -/
theorem everyClockCycleCompletes : Obligations.EveryClockCycleCompletes := by
  intro s p xs hp hi hT
  obtain ⟨t, hrun, hp', hi', htable, hparams, hlane⟩ := run_cycle hp hi hT
  refine ⟨t, hrun, hp', hi', htable, hparams, fun c => ?_⟩
  obtain ⟨res, hc⟩ := hlane c
  rw [hc]
  exact ⟨(Lane.cycle_queue (laneEdge_rxq _ _ _ _) (laneEdge_fatal _ _ _ _) (laneEdge_armed _ _ _ _) _ _).2,
    fun hrst => laneEvents_reader_of_rst hrst _ _ _⟩

/-! ### The stop signal alone -/

/-- R80, R84: with no pin high but the stop signal, a live reader is cancelled and does nothing else. -/
theorem laneEvents_of_cancel {l : Lane} (hfatal : l.reader.fatal = false) : laneEvents .low true l = [.cancel] :=
  resolve_of_cancel (p := .low) (by simp [ReaderPins.low, hfatal]) _

theorem laneTasks_of_cancel {l : Lane} (hfatal : l.reader.fatal = false) (hflight : l.flight = []) (latency : Nat)
    (c : Chan) : laneTasks latency c .low true l = [.event c .cancel] := by
  have hempty : laneFlight latency .low l = [] := by
    rw [laneFlight_of_no_rst rfl, hflight]
    rfl
  rw [laneTasks, laneEvents_of_cancel hfatal, hempty]
  rfl

/-- R84: the channel after such a cycle. -/
theorem laneEdge_after_cancel {l : Lane} (hfatal : l.reader.fatal = false) (latency : Nat) :
    (laneEvents .low true l).foldl Lane.after (laneEdge latency .low true l) =
      { laneEdge latency .low true l with
        reader := { l.reader with armed := false, st := .waitSync, smpValid := false } } := by
  have hreader : (laneEdge latency .low true l).reader = l.reader := by
    rw [laneEdge, laneEvents_of_cancel hfatal]
    rfl
  rw [laneEvents_of_cancel hfatal, List.foldl_cons, List.foldl_nil, Lane.after_cancel (by simpa using hfatal), hreader]
  rfl

/-- Settles O50: each channel resolves to its `CANCEL` alone, so the cycle is three steps and pops no byte. -/
theorem cancelBeatsALowByteOffered : Obligations.CancelBeatsALowByteOffered := by
  intro s xs b rest hp hi _ hfatal _ hq hflight hfatalB hflightB
  have hpending : (edgeState { a := .low, b := .low, cancel := true } s).pending =
      [.event .a .cancel, .event .b .cancel] := by
    simp only [edgeState, laneTasks_of_cancel hfatal hflight, laneTasks_of_cancel hfatalB hflightB,
      List.cons_append, List.nil_append]
  have hundriven : calDriven { a := .low, b := .low, cancel := true } s = false := rfl
  obtain ⟨t, hrun, hp', hi', -, -, hlane⟩ := run_cycle hp hi (by simp [hundriven, hflight, hflightB])
  obtain ⟨res, hA⟩ : ∃ res, t.laneA = { (laneEvents .low true s.laneA).foldl Lane.after
      (laneEdge s.params.calLatency .low true s.laneA) with calRes := res } := hlane .a
  rw [laneEdge_after_cancel hfatal] at hA
  rw [hpending] at hrun
  refine ⟨t, hrun, hp', hi', ?_, ?_, ?_⟩
  · rw [hA]
    exact hq
  · rw [hA]
  · rw [hA]
    rfl

end Sys2Proof.Machine
end

section
/-! The five datapath operations as one function of their operands, the table and `ADC_DIV` (42_calibration.md R96, R103 to
R109): what they complete with, what they leave unchanged, and what they do not read. -/
namespace Sys2Proof.Machine

/-- What a datapath operation answers on the table `T` (R103 to R109); `none` outside its operand range (R105, R106) and for
an instruction that is no datapath operation. -/
def datapathResult (d : AdcDiv) (T : CalTable) (i : Instr) : Option CalResult :=
  match i with
  | .code2v code => some (.voltage (codeToVoltage d code))
  | .calStage1 k v => if k < T.length then some (.estimate k (stage1 T k v)) else none
  | .calStage2 E f => if E.length = T.length then some (.interpolated (stage2 T E f)) else none
  | .calEval v f => some (.power (calPower T v f))
  | .samplePower code f => some (.reading f (calPower T (codeToVoltage d code) f))
  | _ => none

/-- `datapathResult` is what the model's datapath operations put on their channel's output. -/
theorem exec_datapath_next {i : Instr} {s t : State} (hi : i.hasWord = false) :
    exec i s = .next t ↔ ∃ T r, usableTable s = .ok T ∧ datapathResult s.params.adcDiv T i = some r ∧
      t = s.finish { s.cur with calRes := some r } .nothing := by
  cases i
  case code2v | calEval | samplePower =>
    simp [exec, execCode2v, execCalEval, execSamplePower, withTable_next, datapathStep_next, datapathResult]
  case calStage1 | calStage2 =>
    simp only [exec, execCalStage1, execCalStage2, withTable_next, datapathResult]
    refine exists_congr fun T => ?_
    split <;> simp [datapathStep_next]
  all_goals cases hi

/-- R104, R107, R108: on a usable table and within its operand range a datapath operation completes, and it touches nothing
but its channel's output. -/
theorem exec_datapath_completes {i : Instr} {s : State} {T : CalTable} {r : CalResult} (hi : i.hasWord = false)
    (hT : usableTable s = .ok T) (hr : datapathResult s.params.adcDiv T i = some r) :
    ∃ t, exec i s = .next t ∧ t.label = some .nothing ∧ SameElsewhere s t ∧ t.cur = { s.cur with calRes := some r } :=
  ⟨_, (exec_datapath_next hi).2 ⟨T, r, hT, hr, rfl⟩, State.finish_label _ _ _, finish_sameElsewhere _ _ _,
    State.finish_cur _ _ _⟩

/-- Settles O31. -/
theorem code2vGivesTheVoltage : Obligations.Code2vGivesTheVoltage := by
  intro s T code hT
  obtain ⟨t, hexec, hlabel, helse, hcur⟩ := exec_datapath_completes (i := .code2v code) rfl hT rfl
  refine ⟨t, _, hexec, hlabel, helse, hcur, fun hd => ?_, fun hd => ?_⟩
  · rw [hd]
    rfl
  · rw [hd]
    rfl

/-- Settles O32: the key index is in range. -/
theorem calStage1EvaluatesOneCurve : Obligations.CalStage1EvaluatesOneCurve :=
  fun _ _ _ _ hT hk => exec_datapath_completes rfl hT (if_pos hk)

/-- Settles O33: the number of estimates is right. -/
theorem calStage2InterpolatesAcrossFrequency : Obligations.CalStage2InterpolatesAcrossFrequency :=
  fun _ _ _ _ hT hlen => exec_datapath_completes rfl hT (if_pos hlen)

/-- Settles O34: `CAL_EVAL` has no operand range. -/
theorem calEvalRunsBothStages : Obligations.CalEvalRunsBothStages :=
  fun _ _ _ _ hT => exec_datapath_completes rfl hT rfl

/-- Settles O35: nor has `SAMPLE_POWER`. -/
theorem samplePowerGivesTheReading : Obligations.SamplePowerGivesTheReading :=
  fun _ _ _ _ hT => exec_datapath_completes rfl hT rfl

/-- Of the parameters, the table an operation may use depends on `HAS_CAL` only (R8). -/
theorem usableTable_congr_hasCal {s s' : State} (htable : s'.table = s.table)
    (hcal : s'.params.hasCal = s.params.hasCal) : usableTable s' = usableTable s := by
  simp only [usableTable, htable, hcal]

/-- Settles O29: `exec_datapath_next` names all that the operation reads. -/
theorem datapathReadsOnlyItsOperands : Obligations.DatapathReadsOnlyItsOperands := by
  intro s s' t i hi htable hcal hdiv h
  obtain ⟨T, r, hT, hr, rfl⟩ := (exec_datapath_next hi).1 h
  rw [← usableTable_congr_hasCal htable hcal] at hT
  rw [← hdiv] at hr
  obtain ⟨t', hexec, hlabel, -, hcur⟩ := exec_datapath_completes hi hT hr
  exact ⟨t', hexec, by rw [hcur, State.finish_cur], by rw [hcur], by rw [hlabel, State.finish_label]⟩

end Sys2Proof.Machine
end

section
/-! The table load (42_calibration.md R98, R99, R120, R140). -/
namespace Sys2Proof.Machine

theorem keyOk_iff (key : CalKey) :
    keyOk key = true ↔ 2 ≤ key.points.length ∧ (key.points.map CalPoint.volt).Pairwise (· < ·) := by
  simp [keyOk, ascending_iff]

theorem loadCheck_iff (T : CalTable) :
    loadCheck T = true ↔ 2 ≤ T.length ∧ (∀ key ∈ T, keyOk key = true) ∧ (T.map CalKey.freq).Nodup := by
  simp [loadCheck, allDistinct_iff, tabFreqs, and_assoc]

section
variable {s : State} {T : CalTable} {xs : List Input}

theorem step_loadTable (hp : s.pending = []) (hi : s.inputs = .loadTable T :: xs) :
    step s = loadTable T { s with inputs := xs } := by
  simp [step, hp, hi, runInput]

theorem loadTable_of_failed_check (hcal : s.params.hasCal = true) (htable : s.table = none)
    (hcheck : loadCheck T = false) : loadTable T s = .refused .configError := by
  simp [loadTable, hcal, htable, hcheck]

theorem loadTable_of_loaded {T' : CalTable} (hcal : s.params.hasCal = true) (htable : s.table = some T') :
    loadTable T s = .refused .tableAlreadyLoaded := by
  simp [loadTable, hcal, htable]

end

/-- Settles O37: the check is `loadCheck_iff` with each key's check written out, and the load's three outcomes are those of
`loadTable`. -/
theorem tableLoadIsCheckedAndSorted : Obligations.TableLoadIsCheckedAndSorted := by
  refine ⟨fun T => ?check, fun T hT => ⟨tableWf_sortKeys_of_loadCheck hT, sortKeys_perm T⟩, ?passes, ?fails, ?second⟩
  case check =>
    rw [loadCheck_iff]
    simp only [keyOk_iff, forall₂_and]
    tauto
  case passes =>
    intro s T xs hp hi hcal htable hcheck
    rw [step_loadTable hp hi]
    exact loadTable_next.2 ⟨hcal, htable, hcheck, rfl⟩
  case fails =>
    intro s T xs hp hi hcal htable hcheck
    have hrefused : step s = .refused .configError := by
      rw [step_loadTable hp hi]
      exact loadTable_of_failed_check hcal htable hcheck
    exact ⟨hrefused, by rw [hrefused]; rfl⟩
  case second =>
    intro s T T' xs hp hi hcal htable
    rw [step_loadTable hp hi]
    exact loadTable_of_loaded hcal htable

end Sys2Proof.Machine
end

section
/-! The piecewise line (42_calibration.md R101, R102): the line through two points, the segment an abscissa belongs to, and
what the line of that segment gives. -/
namespace Sys2Proof.Machine

/-! ### The line through two points -/

theorem lerp_left (x0 y0 x1 y1 : CalNum) : lerp x0 y0 x1 y1 x0 = y0 := by
  simp [lerp]

section
variable {x0 x1 : CalNum}

theorem lerp_right (hne : x0 ≠ x1) (y0 y1 : CalNum) : lerp x0 y0 x1 y1 x1 = y1 := by
  have hwidth : x1 - x0 ≠ 0 := sub_ne_zero.2 hne.symm
  rw [lerp, mul_div_assoc, div_self hwidth]
  ring

theorem lerp_add_sub (x0 y0 x1 y1 x d : CalNum) :
    lerp x0 y0 x1 y1 (x + d) - lerp x0 y0 x1 y1 x = (y1 - y0) / (x1 - x0) * d := by
  simp only [lerp]
  ring

/-- A line that does not fall between its two points does not fall anywhere. -/
theorem lerp_mono (hx : x0 < x1) {y0 y1 : CalNum} (hy : y0 ≤ y1) {x x' : CalNum} (h : x ≤ x') :
    lerp x0 y0 x1 y1 x ≤ lerp x0 y0 x1 y1 x' := by
  have hrise : 0 ≤ (y1 - y0) / (x1 - x0) * (x' - x) :=
    mul_nonneg (div_nonneg (sub_nonneg.2 hy) (sub_pos.2 hx).le) (sub_nonneg.2 h)
  rw [← lerp_add_sub, add_sub_cancel] at hrise
  exact sub_nonneg.1 hrise

/-- Between its points, the line lies higher where both ordinates do. -/
theorem lerp_mono_ordinates (hx : x0 < x1) {y0 y1 z0 z1 x : CalNum} (h0 : y0 ≤ z0) (h1 : y1 ≤ z1) (hlo : x0 ≤ x)
    (hhi : x ≤ x1) : lerp x0 y0 x1 y1 x ≤ lerp x0 z0 x1 z1 x := by
  have hwidth : 0 < x1 - x0 := sub_pos.2 hx
  have hweights (w0 w1 : CalNum) :
      lerp x0 w0 x1 w1 x = (x1 - x) / (x1 - x0) * w0 + (x - x0) / (x1 - x0) * w1 := by
    rw [lerp]
    field_simp
    ring
  rw [hweights, hweights]
  exact add_le_add (mul_le_mul_of_nonneg_left h0 (div_nonneg (sub_nonneg.2 hhi) hwidth.le))
    (mul_le_mul_of_nonneg_left h1 (div_nonneg (sub_nonneg.2 hlo) hwidth.le))

end

/-- Settles O38. -/
theorem lerpIsTheLineThroughTwoPoints : Obligations.LerpIsTheLineThroughTwoPoints :=
  fun x0 y0 x1 y1 hne => ⟨fun _ => rfl, lerp_left x0 y0 x1 y1, lerp_right hne y0 y1, lerp_add_sub x0 y0 x1 y1⟩

/-! ### The segment of an abscissa -/

section
variable {xs ys : List CalNum} {x : CalNum}

theorem ascending_getD_lt (hasc : ascending xs = true) {i j : Nat} (hij : i < j) (hj : j < xs.length) :
    xs.getD i 0 < xs.getD j 0 := by
  rw [List.getD_eq_getElem _ _ (hij.trans hj), List.getD_eq_getElem _ _ hj]
  exact List.pairwise_iff_getElem.1 ((ascending_iff xs).1 hasc) i j _ hj hij

theorem ascending_getD_le (hasc : ascending xs = true) {i j : Nat} (hij : i ≤ j) (hj : j < xs.length) :
    xs.getD i 0 ≤ xs.getD j 0 := by
  obtain rfl | hij := hij.eq_or_lt
  · exact le_rfl
  · exact (ascending_getD_lt hasc hij hj).le

theorem nonDecreasing_getD_le (hys : nonDecreasing ys = true) {i j : Nat} (hij : i ≤ j) (hj : j < ys.length) :
    ys.getD i 0 ≤ ys.getD j 0 := by
  obtain rfl | hij := hij.eq_or_lt
  · exact le_rfl
  · rw [List.getD_eq_getElem _ _ (hij.trans hj), List.getD_eq_getElem _ _ hj]
    exact List.pairwise_iff_getElem.1 ((nonDecreasing_iff ys).1 hys) i j _ hj hij

theorem lastIndexLe_lt {m : Nat} (hm : 0 < m) : lastIndexLe xs x m < m := by
  induction m with
  | zero => exact hm
  | succ m ih =>
    rw [lastIndexLe]
    split
    · exact m.lt_succ_self
    · cases m with
      | zero => exact hm
      | succ m => exact (ih m.succ_pos).trans (Nat.lt_succ_self _)

theorem getD_lastIndexLe_le {m : Nat} (h : lastIndexLe xs x m ≠ 0) : xs.getD (lastIndexLe xs x m) 0 ≤ x := by
  induction m with
  | zero => exact absurd rfl h
  | succ m ih =>
    rw [lastIndexLe] at h ⊢
    split at h
    · next hle => rwa [if_pos hle]
    · next hgt => rw [if_neg hgt]; exact ih h

theorem lt_getD_of_lastIndexLe_lt {m i : Nat} (h : lastIndexLe xs x m < i) (hi : i < m) : x < xs.getD i 0 := by
  induction m with
  | zero => exact absurd hi (Nat.not_lt_zero i)
  | succ m ih =>
    rw [lastIndexLe] at h
    split at h
    · omega
    · next hgt =>
      obtain rfl | hi := (Nat.lt_succ_iff.1 hi).eq_or_lt
      · exact not_le.1 hgt
      · exact ih h hi

/-- `x` belongs to the segment between the points `j` and `j + 1`, where the first segment also takes what lies below it and
the last what lies above (R102). -/
structure OnSegment (xs : List CalNum) (x : CalNum) (j : Nat) : Prop where
  index_lt : j + 1 < xs.length
  left_le : j ≠ 0 → xs.getD j 0 ≤ x
  lt_right : j + 2 < xs.length → x < xs.getD (j + 1) 0

theorem onSegment_segment (hlen : 2 ≤ xs.length) (x : CalNum) : OnSegment xs x (segment xs x) where
  index_lt := by
    have := lastIndexLe_lt (xs := xs) (x := x) (m := xs.length - 1) (by omega)
    rw [segment]
    omega
  left_le := getD_lastIndexLe_le
  lt_right h := lt_getD_of_lastIndexLe_lt (Nat.lt_succ_self _) (by omega)

/-- Segments go up with the abscissa. -/
theorem OnSegment.le_of_le (hasc : ascending xs = true) {x' : CalNum} {i j : Nat} (hi : OnSegment xs x i)
    (hj : OnSegment xs x' j) (h : x ≤ x') : i ≤ j := by
  obtain ⟨hilt, hileft, -⟩ := hi
  by_contra! hlt
  have hx' : x' < x :=
    calc x' < xs.getD (j + 1) 0 := hj.lt_right (by omega)
      _ ≤ xs.getD i 0 := ascending_getD_le hasc hlt (by omega)
      _ ≤ x := hileft (by omega)
  exact absurd h (not_le.2 hx')

theorem pwLin_of_onSegment (hasc : ascending xs = true) {j : Nat} (h : OnSegment xs x j) :
    pwLin xs ys x = lerp (xs.getD j 0) (ys.getD j 0) (xs.getD (j + 1) 0) (ys.getD (j + 1) 0) x := by
  have hseg : OnSegment xs x (segment xs x) := onSegment_segment (le_trans (by omega) h.index_lt) x
  rw [pwLin, le_antisymm (hseg.le_of_le hasc h le_rfl) (h.le_of_le hasc hseg le_rfl)]

/-! ### The piecewise line -/

/-- At and above the last abscissa: the last segment (R102). -/
theorem onSegment_of_last_le (hasc : ascending xs = true) (hlen : 2 ≤ xs.length) (hx : xs.getD (xs.length - 1) 0 ≤ x) :
    OnSegment xs x (xs.length - 2) where
  index_lt := by omega
  left_le _ := (ascending_getD_le hasc (by omega) (by omega)).trans hx
  lt_right _ := by omega

/-- Below the first abscissa: the first segment (R102). -/
theorem onSegment_of_lt_first (hasc : ascending xs = true) (hlen : 2 ≤ xs.length) (hx : x < xs.getD 0 0) :
    OnSegment xs x 0 where
  index_lt := hlen
  left_le h := absurd rfl h
  lt_right _ := hx.trans (ascending_getD_lt hasc Nat.zero_lt_one hlen)

theorem pwLin_of_last_le (hasc : ascending xs = true) (hlen : 2 ≤ xs.length) (hx : xs.getD (xs.length - 1) 0 ≤ x) :
    pwLin xs ys x = lerp (xs.getD (xs.length - 2) 0) (ys.getD (xs.length - 2) 0)
      (xs.getD (xs.length - 1) 0) (ys.getD (xs.length - 1) 0) x := by
  rw [pwLin_of_onSegment hasc (onSegment_of_last_le hasc hlen hx), show xs.length - 2 + 1 = xs.length - 1 by omega]

/-- The piecewise line passes through its points: each is the left end of its segment, but the last, which is a right end. -/
theorem pwLin_getD (hasc : ascending xs = true) (hlen : 2 ≤ xs.length) {i : Nat} (hi : i < xs.length) :
    pwLin xs ys (xs.getD i 0) = ys.getD i 0 := by
  obtain hlast | hinner : i = xs.length - 1 ∨ i + 1 < xs.length := by omega
  · rw [hlast, pwLin_of_last_le hasc hlen le_rfl]
    exact lerp_right (ascending_getD_lt hasc (by omega) (by omega)).ne _ _
  · have hseg : OnSegment xs (xs.getD i 0) i :=
      ⟨hinner, fun _ => le_rfl, fun _ => ascending_getD_lt hasc i.lt_succ_self hinner⟩
    rw [pwLin_of_onSegment hasc hseg, lerp_left]

/-- Settles O39: in each clause the segment is known. -/
theorem pwLinPassesThroughItsPoints : Obligations.PwLinPassesThroughItsPoints := by
  intro xs ys hasc hlen _
  refine ⟨fun i hi => pwLin_getD hasc hlen hi, fun j x hj hle hlt => ?between, fun x hx => ?below,
    fun x hx => pwLin_of_last_le hasc hlen hx⟩
  case between => exact pwLin_of_onSegment hasc ⟨hj, fun _ => hle, fun _ => hlt⟩
  case below => exact pwLin_of_onSegment hasc (onSegment_of_lt_first hasc hlen hx)

/-- With ordinates that do not fall, the piecewise line does not fall: on one segment as its line does not, and from one
segment to a later one past the points between them. -/
theorem pwLin_mono (hasc : ascending xs = true) (hlen : 2 ≤ xs.length) (hys : nonDecreasing ys = true)
    (hlength : ys.length = xs.length) {x' : CalNum} (h : x ≤ x') : pwLin xs ys x ≤ pwLin xs ys x' := by
  have hi := onSegment_segment hlen x
  have hj := onSegment_segment hlen x'
  generalize segment xs x = i at hi
  generalize segment xs x' = j at hj
  have hstep {k : Nat} (hk : k + 1 < xs.length) :
      xs.getD k 0 < xs.getD (k + 1) 0 ∧ ys.getD k 0 ≤ ys.getD (k + 1) 0 :=
    ⟨ascending_getD_lt hasc k.lt_succ_self hk, nonDecreasing_getD_le hys k.le_succ (hlength ▸ hk)⟩
  obtain ⟨hxi, hyi⟩ := hstep hi.index_lt
  obtain ⟨hxj, hyj⟩ := hstep hj.index_lt
  rw [pwLin_of_onSegment hasc hi, pwLin_of_onSegment hasc hj]
  obtain rfl | hij := (hi.le_of_le hasc hj h).eq_or_lt
  · exact lerp_mono hxi hyi h
  · have hjlt : j + 1 < xs.length := hj.index_lt
    have hright : x ≤ xs.getD (i + 1) 0 := (hi.lt_right (by omega)).le
    have hleft : xs.getD j 0 ≤ x' := hj.left_le (by omega)
    calc lerp (xs.getD i 0) (ys.getD i 0) (xs.getD (i + 1) 0) (ys.getD (i + 1) 0) x
        ≤ lerp (xs.getD i 0) (ys.getD i 0) (xs.getD (i + 1) 0) (ys.getD (i + 1) 0) (xs.getD (i + 1) 0) :=
          lerp_mono hxi hyi hright
      _ = ys.getD (i + 1) 0 := lerp_right hxi.ne _ _
      _ ≤ ys.getD j 0 := nonDecreasing_getD_le hys hij (by omega)
      _ = lerp (xs.getD j 0) (ys.getD j 0) (xs.getD (j + 1) 0) (ys.getD (j + 1) 0) (xs.getD j 0) :=
          (lerp_left _ _ _ _).symm
      _ ≤ lerp (xs.getD j 0) (ys.getD j 0) (xs.getD (j + 1) 0) (ys.getD (j + 1) 0) x' := lerp_mono hxj hyj hleft

/-- Inside the range of its abscissae, the piecewise line lies higher where all its ordinates do. -/
theorem pwLin_mono_ordinates {zs : List CalNum} (hasc : ascending xs = true) (hlen : 2 ≤ xs.length)
    (hlo : xs.getD 0 0 ≤ x) (hhi : x ≤ xs.getD (xs.length - 1) 0)
    (hle : ∀ k, k < xs.length → ys.getD k 0 ≤ zs.getD k 0) : pwLin xs ys x ≤ pwLin xs zs x := by
  have hj := onSegment_segment hlen x
  generalize segment xs x = j at hj
  obtain ⟨hlt, hleft, hright⟩ := hj
  rw [pwLin_of_onSegment hasc ⟨hlt, hleft, hright⟩, pwLin_of_onSegment hasc ⟨hlt, hleft, hright⟩]
  refine lerp_mono_ordinates (ascending_getD_lt hasc (Nat.lt_add_one j) hlt) (hle _ (by omega)) (hle _ hlt) ?left ?right
  case left =>
    by_cases hfirst : j = 0
    · rwa [hfirst]
    · exact hleft hfirst
  case right =>
    obtain hlast | hinner : j + 1 = xs.length - 1 ∨ j + 2 < xs.length := by omega
    · rwa [hlast]
    · exact (hright hinner).le

end

end Sys2Proof.Machine
end

section
/-! The values the datapath computes (42_calibration.md R103 to R106, R112): the voltage of a code, a key's curve at a
voltage, and the estimates across frequency. -/
namespace Sys2Proof.Machine

/-! ### The voltage of a code -/

theorem adcDivisor_ge (d : AdcDiv) : 4095 ≤ adcDivisor d := by
  cases d <;> norm_num [adcDivisor]

theorem adcDivisor_pos (d : AdcDiv) : 0 < adcDivisor d := lt_of_lt_of_le (by norm_num) (adcDivisor_ge d)

theorem codeToVoltage_nonneg (d : AdcDiv) (code : Sample) : 0 ≤ codeToVoltage d code := by
  have := adcDivisor_pos d
  unfold codeToVoltage Config.vref
  positivity

/-- R103: no code exceeds the divisor, so no voltage exceeds `VREF`. -/
theorem codeToVoltage_le_vref (d : AdcDiv) (code : Sample) : codeToVoltage d code ≤ Config.vref := by
  have hcode : (code.toNat : CalNum) ≤ 4095 := by exact_mod_cast Nat.le_of_lt_succ code.isLt
  rw [codeToVoltage, div_le_iff₀ (adcDivisor_pos d)]
  exact mul_le_mul_of_nonneg_left (hcode.trans (adcDivisor_ge d)) (by norm_num [Config.vref])

theorem codeToVoltage_lt {c1 c2 : Sample} (d : AdcDiv) (h : c1.toNat < c2.toNat) :
    codeToVoltage d c1 < codeToVoltage d c2 := by
  have hcodes : (c1.toNat : CalNum) < c2.toNat := by exact_mod_cast h
  exact div_lt_div_of_pos_right (mul_lt_mul_of_pos_left hcodes (by norm_num [Config.vref])) (adcDivisor_pos d)

theorem codeToVoltage_le {c1 c2 : Sample} (d : AdcDiv) (h : c1.toNat ≤ c2.toNat) :
    codeToVoltage d c1 ≤ codeToVoltage d c2 := by
  obtain heq | hlt := h.eq_or_lt
  · rw [BitVec.eq_of_toNat_eq heq]
  · exact (codeToVoltage_lt d hlt).le

/-- Settles O40. -/
theorem code2vIsStrictlyIncreasing : Obligations.Code2vIsStrictlyIncreasing := by
  refine ⟨?zero, ?full, fun code => ⟨rfl, rfl⟩, fun d code => ⟨codeToVoltage_nonneg d code, codeToVoltage_le_vref d code⟩,
    fun d c1 c2 h => codeToVoltage_lt d h⟩
  case zero => simp [codeToVoltage]
  case full => norm_num [codeToVoltage, Config.vref, adcDivisor]

/-! ### The two stages -/

theorem tableWf_iff (T : CalTable) :
    tableWf T = true ↔ 2 ≤ T.length ∧ (∀ key ∈ T, keyOk key = true) ∧ ascending (tabFreqs T) = true := by
  simp [tableWf, and_assoc]

@[simp] theorem tabFreqs_length (T : CalTable) : (tabFreqs T).length = T.length := by
  simp [tabFreqs]

@[simp] theorem tabVolts_length (T : CalTable) (k : Nat) : (tabVolts T k).length = (tabPoints T k).length := by
  simp [tabVolts]

@[simp] theorem tabPowers_length (T : CalTable) (k : Nat) : (tabPowers T k).length = (tabPoints T k).length := by
  simp [tabPowers]

theorem estimates_getD {T : CalTable} {k : Nat} (hk : k < T.length) (v : CalNum) :
    (estimates T v).getD k 0 = stage1 T k v := by
  simp [estimates, hk]

section
variable {T : CalTable} (hT : tableWf T = true)
include hT

/-- R98, items 4 and 5: each key's curve has its points, in ascending voltage. -/
theorem curve_of_tableWf {k : Nat} (hk : k < T.length) :
    2 ≤ (tabPoints T k).length ∧ ascending (tabVolts T k) = true := by
  obtain ⟨-, hkeys, -⟩ := (tableWf_iff T).1 hT
  have hkey := hkeys T[k] (List.getElem_mem hk)
  rw [keyOk, Bool.and_eq_true, decide_eq_true_eq] at hkey
  simpa [tabVolts, tabPoints, hk] using hkey

theorem stage1_at_point {k i : Nat} (hk : k < T.length) (hi : i < (tabPoints T k).length) :
    stage1 T k ((tabVolts T k).getD i 0) = (tabPowers T k).getD i 0 := by
  obtain ⟨hlen, hasc⟩ := curve_of_tableWf hT hk
  exact pwLin_getD hasc (by simpa using hlen) (by simpa using hi)

theorem stage1_mono {k : Nat} (hk : k < T.length) (hpowers : nonDecreasing (tabPowers T k) = true) {v1 v2 : CalNum}
    (h : v1 ≤ v2) : stage1 T k v1 ≤ stage1 T k v2 := by
  obtain ⟨hlen, hasc⟩ := curve_of_tableWf hT hk
  exact pwLin_mono hasc (by simpa using hlen) hpowers (by simp) h

theorem stage2_at_key {k : Nat} (hk : k < T.length) (E : List CalNum) :
    stage2 T E ((tabFreqs T).getD k 0) = E.getD k 0 := by
  obtain ⟨hlen, -, hasc⟩ := (tableWf_iff T).1 hT
  exact pwLin_getD hasc (by simpa using hlen) (by simpa using hk)

theorem stage2_mono {E E' : List CalNum} {f : CalNum} (hlo : (tabFreqs T).getD 0 0 ≤ f)
    (hhi : f ≤ (tabFreqs T).getD (T.length - 1) 0) (hle : ∀ k, k < T.length → E.getD k 0 ≤ E'.getD k 0) :
    stage2 T E f ≤ stage2 T E' f := by
  obtain ⟨hlen, -, hasc⟩ := (tableWf_iff T).1 hT
  exact pwLin_mono_ordinates hasc (by simpa using hlen) hlo (by simpa using hhi) (by simpa using hle)

/-- R112: both stages keep the order of the voltages. -/
theorem calPower_mono {f : CalNum} (hpowers : ∀ k, k < T.length → nonDecreasing (tabPowers T k) = true)
    (hlo : (tabFreqs T).getD 0 0 ≤ f) (hhi : f ≤ (tabFreqs T).getD (T.length - 1) 0) {v1 v2 : CalNum} (h : v1 ≤ v2) :
    calPower T v1 f ≤ calPower T v2 f := by
  have hestimates (k : Nat) (hk : k < T.length) : (estimates T v1).getD k 0 ≤ (estimates T v2).getD k 0 := by
    rw [estimates_getD hk, estimates_getD hk]
    exact stage1_mono hT hk (hpowers k hk) h
  exact add_le_add (stage2_mono hT hlo hhi hestimates) le_rfl

end

/-- Settles O41. -/
theorem calEvalIsExactAtTheTable : Obligations.CalEvalIsExactAtTheTable := by
  intro T hT
  refine ⟨fun k v hk => ?_, fun k i hk hi => stage1_at_point hT hk hi⟩
  rw [calPower, stage2_at_key hT hk, estimates_getD hk]
  rfl

/-- Settles O42: for codes, `CODE2V` keeps their order too. -/
theorem powerDoesNotDecreaseWithVoltage : Obligations.PowerDoesNotDecreaseWithVoltage := by
  intro T f hT hpowers hlo hhi
  have hmono {v1 v2 : CalNum} (h : v1 ≤ v2) := calPower_mono hT hpowers hlo hhi h
  exact ⟨fun v1 v2 h => hmono h, fun d c1 c2 h => hmono (codeToVoltage_le d h)⟩

end Sys2Proof.Machine
end

section
/-! The pipeline (42_calibration.md R111): an operation is on the output when the edges it has to wait are over, and a
sample's reading when the latency is. -/
namespace Sys2Proof.Machine

/-! ### What leaves at each edge -/

/-- The operands of the operations that leave `n` edges on from the present one (R111). -/
def leavingIn (n : Nat) (q : List InFlight) : List (Sample × CalNum) :=
  (q.filter (fun x => x.wait = n)).map (fun x => (x.code, x.freq))

theorem leavingIn_zero (q : List InFlight) : leavingIn 0 q = (leaving q).map (fun x => (x.code, x.freq)) := rfl

theorem leavingIn_append (n : Nat) (q q' : List InFlight) : leavingIn n (q ++ q') = leavingIn n q ++ leavingIn n q' := by
  simp [leavingIn]

/-- An edge brings what stays one edge nearer. -/
theorem leavingIn_staying (n : Nat) (q : List InFlight) : leavingIn n (staying q) = leavingIn (n + 1) q := by
  have hwait (w : Nat) : (w ≠ 0 ∧ w - 1 = n) ↔ w = n + 1 := by omega
  simp only [leavingIn, staying, List.filter_map, List.filter_filter, List.map_map]
  congr 2
  funext x
  simp [← hwait, Bool.and_comm]

theorem leavingIn_entering (n latency : Nat) (x : Option (Sample × CalNum)) :
    leavingIn n (entering latency x) = if n = latency then x.toList else [] := by
  cases x with
  | none => simp [leavingIn, entering]
  | some x => by_cases h : n = latency <;> simp [leavingIn, entering, h, eq_comm]

/-- R111: at each edge leaves first what was in flight and had that long to wait, then what entered the latency before. -/
theorem pipeOutputs_getElem? {latency n : Nat} {xs : List (Option (Sample × CalNum))} (q : List InFlight)
    (hn : n < xs.length) :
    (pipeOutputs latency q xs)[n]? =
      some (leavingIn n q ++ if n < latency then [] else (xs.getD (n - latency) none).toList) := by
  induction xs generalizing q n with
  | nil => exact absurd hn (Nat.not_lt_zero n)
  | cons x xs ih =>
    cases n with
    | zero =>
      rw [pipeOutputs, List.getElem?_cons_zero, ← leavingIn_zero, leavingIn_append, leavingIn_entering]
      cases latency <;> simp
    | succ n =>
      rw [pipeOutputs, List.getElem?_cons_succ, ih _ (Nat.lt_of_succ_lt_succ hn), leavingIn_staying, leavingIn_append,
        leavingIn_entering, List.append_assoc]
      congr 2
      obtain hlt | heq | hgt := Nat.lt_trichotomy (n + 1) latency
      · simp [hlt, hlt.ne, Nat.lt_of_succ_lt hlt]
      · simp [← heq]
      · have hpast : n + 1 - latency = n - latency + 1 := by omega
        simp [hgt.ne', hgt.not_gt, Nat.not_lt.2 (Nat.le_of_lt_succ hgt), hpast]

/-- Settles O43: nothing is in flight at first. -/
theorem pipelineDelaysByTheLatency : Obligations.PipelineDelaysByTheLatency := by
  intro latency xs n hn
  rw [pipeOutputs_getElem? [] hn]
  rfl

/-! ### A sample's way to the output -/

/-- A task with a datapath operation is one step, and its result stands on its channel's output. -/
theorem step_datapath {c : Chan} {op : DpOp} {ks : List Task} {xs : List Input} {s : State} {T : CalTable} {r : CalResult}
    (hs : Queued (.datapath c op :: ks) xs s) (hT : usableTable s = .ok T)
    (hr : datapathResult s.params.adcDiv T (decodeDatapath op) = some r) :
    ∃ t, step s = .next t ∧ Queued ks xs t ∧ ChannelBecomes c { s.lane c with calRes := some r } s t := by
  obtain ⟨t, hstep, ht, hc, -⟩ :=
    step_queued (l := { s.lane c with calRes := some r }) (lbl := .nothing) hs fun s' hblock => by
      have hT' : usableTable (s'.select c) = .ok T := (usableTable_congr hblock.table hblock.params).trans hT
      rw [runTask, exec_datapath_next (by cases op <;> rfl)]
      exact ⟨T, r, hT', by rw [s'.select_params, hblock.params, hr], by rw [s'.select_cur, hblock.lane]⟩
  exact ⟨t, hstep, ht, hc⟩

/-- On these pins no reader has anything to do: all are low but the calibration inputs. -/
def Pins.CalOnly (p : Pins) : Prop :=
  p.cancel = false ∧ ∀ c, p.chan c = { ReaderPins.low with cal := (p.chan c).cal }

theorem calOnly_low : Pins.low.CalOnly := ⟨rfl, fun c => by cases c <;> rfl⟩

/-- R88: an idle reader on such pins has no event, so the channel has before it only what leaves its datapath. -/
theorem laneTasks_of_calOnly {p : Pins} (hp : p.CalOnly) {c : Chan} {l : Lane} (hidle : l.reader.armed = false)
    (latency : Nat) :
    laneTasks latency c (p.chan c) p.cancel l =
      (leaving (laneFlight latency (p.chan c) l)).map (fun x => .datapath c (.samplePower x.code x.freq)) := by
  obtain ⟨hcancel, hpins⟩ := hp
  have hevents : laneEvents (p.chan c) p.cancel l = [] := by
    rw [hpins c, hcancel]
    simp [laneEvents, resolve, ReaderPins.low, hidle]
  have hrst : (p.chan c).rst = false := by rw [hpins c]; rfl
  simp [laneTasks, hevents, hrst]

theorem laneFlight_low (latency : Nat) (l : Lane) : laneFlight latency .low l = l.flight := by
  rw [laneFlight_of_no_rst rfl]
  exact List.append_nil _

theorem edgeState_pending_of_other {p : Pins} {s : State} {c : Chan}
    (h : laneTasks s.params.calLatency (otherChan c) (p.chan (otherChan c)) p.cancel (s.lane (otherChan c)) = []) :
    (edgeState p s).pending = laneTasks s.params.calLatency c (p.chan c) p.cancel (s.lane c) := by
  cases c with
  | a => exact (congrArg _ h).trans (List.append_nil _)
  | b => exact congrArg (· ++ _) h

/-- At the edge with the pins `p` both readers are idle, and all that is in a datapath or enters one is the sample `code` at
the frequency `f` in the channel `c`, which leaves `n` edges on (R111). -/
structure OneInFlight (c : Chan) (n : Nat) (code : Sample) (f : CalNum) (p : Pins) (s : State) : Prop where
  pins : p.CalOnly
  idle : ∀ d, (s.lane d).reader.armed = false
  flight : laneFlight s.params.calLatency (p.chan c) (s.lane c) = [⟨n, code, f⟩]
  other : laneFlight s.params.calLatency (p.chan (otherChan c)) (s.lane (otherChan c)) = []

section
variable {c : Chan} {n : Nat} {code : Sample} {f : CalNum} {p : Pins} {s : State}

theorem OneInFlight.edge_pending (h : OneInFlight c n code f p s) :
    (edgeState p s).pending = if n = 0 then [.datapath c (.samplePower code f)] else [] := by
  have hother := laneTasks_of_calOnly h.pins (c := otherChan c) (h.idle (otherChan c)) s.params.calLatency
  rw [h.other] at hother
  rw [edgeState_pending_of_other hother, laneTasks_of_calOnly h.pins (h.idle c), h.flight]
  cases n <;> rfl

theorem OneInFlight.edge (h : OneInFlight c (n + 1) code f p s) : OneInFlight c n code f .low (edgeState p s) where
  pins := calOnly_low
  idle d := by
    rw [edgeState_lane, laneEdge_armed]
    exact h.idle d
  flight := by
    have hstays : ((edgeState p s).lane c).flight = staying [⟨n + 1, code, f⟩] := by
      rw [edgeState_lane, ← h.flight]
      rfl
    rw [show Pins.low.chan c = .low by cases c <;> rfl, laneFlight_low, hstays]
    rfl
  other := by
    have hstays : ((edgeState p s).lane (otherChan c)).flight = staying [] := by
      rw [edgeState_lane, ← h.other]
      rfl
    rw [show Pins.low.chan (otherChan c) = .low by cases c <;> rfl, laneFlight_low, hstays]
    rfl

theorem OneInFlight.with_inputs (h : OneInFlight c n code f p s) (xs : List Input) :
    OneInFlight c n code f p { s with inputs := xs } where
  pins := h.pins
  idle d := by
    rw [s.lane_with_inputs]
    exact h.idle d
  flight := by
    rw [s.lane_with_inputs]
    exact h.flight
  other := by
    rw [s.lane_with_inputs]
    exact h.other

/-- R109, R111: the reading is on its channel's output after the edges still to wait, the present one and its own step. -/
theorem run_oneInFlight {T : CalTable} {xs : List Input} (h : OneInFlight c n code f p s) (hp : s.pending = [])
    (hi : s.inputs = .cycle p :: (List.replicate n (.cycle Pins.low) ++ xs)) (hT : usableTable s = .ok T) :
    ∃ t, core.run (n + 2) s = .next t ∧ t.inputs = xs ∧ t.pending = [] ∧
      (t.lane c).calOut = some (f, calPower T (codeToVoltage s.params.adcDiv code) f) ∧
      (t.lane (otherChan c)).calOut = none := by
  induction n generalizing p s with
  | zero =>
    have hedge := step_edge_next hp (.inl hi) fun _ => ⟨T, hT⟩
    have h' := h.with_inputs xs
    obtain ⟨t, hstep, ht, hc⟩ :=
      step_datapath (ks := []) (.inl ⟨h'.edge_pending, rfl⟩) ((usableTable_congr rfl rfl).trans hT) rfl
    obtain ⟨hpending, hinputs⟩ := queued_nil.1 ht
    refine ⟨t, ?run, hinputs, hpending, ?reading, ?silent⟩
    case run => exact (core_run_succ hedge).trans (core_run_succ hstep)
    case reading =>
      rw [hc.lane]
      rfl
    case silent =>
      rw [hc.other, edgeState_lane]
      rfl
  | succ n ih =>
    have hedge := step_edge_next hp (.inl hi) fun _ => ⟨T, hT⟩
    have h' := h.with_inputs (List.replicate (n + 1) (.cycle Pins.low) ++ xs)
    obtain ⟨t, hrun, ht⟩ := ih h'.edge h'.edge_pending rfl ((usableTable_congr rfl rfl).trans hT)
    exact ⟨t, (core_run_succ hedge).trans hrun, ht⟩

end

/-- Settles O51: at the first edge the sample enters, with the whole latency to wait. -/
theorem sampleReachesThePowerOutput : Obligations.SampleReachesThePowerOutput := by
  intro s c p T f xs hpc hpo hcancel hp hi hT hlanes hvalid
  have hpins : p.CalOnly := by
    refine ⟨hcancel, fun d => ?_⟩
    by_cases hd : d = c
    · rw [hd, hpc]
    · rw [eq_otherChan hd, hpo]
  have hflight : laneFlight s.params.calLatency (p.chan c) (s.lane c) =
      [⟨s.params.calLatency, (s.lane c).reader.smpData, f⟩] := by
    rw [hpc, laneFlight_of_no_rst rfl, (hlanes c).1]
    simp [calOperands, hvalid, entering]
  have hother : laneFlight s.params.calLatency (p.chan (otherChan c)) (s.lane (otherChan c)) = [] := by
    rw [hpo, laneFlight_low, (hlanes (otherChan c)).1]
  exact run_oneInFlight ⟨hpins, fun d => (hlanes d).2, hflight, hother⟩ hp hi hT

end Sys2Proof.Machine
end

section
/-! The hazard of a misaligned request (70_reset_and_hazards.md R141): a frame that brings a request back to the state it
met it in, and so does a stream of such frames. -/
namespace Sys2Proof.Machine

/-- R92: blocks of bytes that each bring a pending request back to `q` do so together. -/
theorem scan_flatMap_of_pending {α : Type} {q : ScanState} {block : α → List Byte}
    (h : ∀ a, scan q (block a) = .pending q) (as : List α) : scan q (as.flatMap block) = .pending q := by
  induction as with
  | nil => cases q <;> rfl
  | cons a as ih => rw [List.flatMap_cons, scan_append_of_pending (h a), ih]

/-- R56: no valid high byte is the sync byte. -/
theorem ne_syncByte_of_valid {b : Byte} (h : isValidHigh b = true) : b ≠ Config.syncByte := by
  rintro rfl
  exact absurd h (by decide)

/-- R141: where a high byte is due, a frame's sync byte is dropped as an invalid one, its high byte is skipped as garbage,
and its low byte, equal to the sync byte, is taken for one. -/
theorem scan_misaligned_frame {b : Byte} (h : isValidHigh b = true) :
    scan .readHigh [Config.syncByte, b, Config.syncByte] = .pending .readHigh :=
  calc scan .readHigh [Config.syncByte, b, Config.syncByte]
    _ = scan .waitSync [b, Config.syncByte] := if_neg (by decide)
    _ = scan .waitSync [Config.syncByte] := if_neg (ne_syncByte_of_valid h)
    _ = .pending .readHigh := if_pos rfl

/-- Settles O60: the first `0xFF` is taken for a sync byte, and every frame comes back to where that leaves the request. -/
theorem misalignedRequestNeverLocks : Obligations.MisalignedRequestNeverLocks := by
  intro hs
  have hframe (n : Nibble) : scan .readHigh [0xFF#8, 0b0000#4 ++ n, 0xFF#8] = .pending .readHigh := by
    rw [zero_append_nibble]
    exact scan_misaligned_frame (isValidHigh_setWidth n)
  exact (if_pos rfl).trans (scan_flatMap_of_pending hframe hs)

end Sys2Proof.Machine
end
